-- ==== Sys2Proof/Word.lean ====
section
/-! DEFINITION. The two cell widths of the block (spec 10_state.md R40): 32-bit grid cells and registers, 16-bit sample cells. -/

namespace Sys2Proof

/-- A 32-bit register, bus word or grid cell (R21, R40). -/
abbrev Word := BitVec 32

/-- A 16-bit sample cell or table entry (R40, R43). -/
abbrev Half := BitVec 16

end Sys2Proof
end

