-- ==== Sys2Proof/Syntax.lean ====
section
/-! DEFINITION. The commands of the block (spec 30_encoding.md R112 to R114), one constructor per row of spec/opcode_table.json. -/

namespace Sys2Proof

/-- A radius slot `k` of a parameter set (R16): 0 or 1. -/
inductive Slot where
  | slot0
  | slot1
deriving DecidableEq, Repr

/-- The channel `ch` of `BOXSUM` (R113): `sums` selects the image `D`, `squares` the image `C`. -/
inductive Channel where
  | sums
  | squares
deriving DecidableEq, Repr

/-- The twelve commands. The only immediates are the slot, the channel and the box radius (R114). -/
inductive Instr where
  | nop
  | buildII
  | boxsum (ch : Channel) (r : Nat)
  | calcAb (k : Slot)
  | calcAbFast (k : Slot)
  | finalFilter (k : Slot)
  | finalFilterFast (k : Slot)
  | blend
  | restore
  | apply
  | clr
  | srst
deriving DecidableEq, Repr

end Sys2Proof
end

