-- ==== Sys2Proof/WellFormed.lean ====
section
/-! DEFINITION. Which terms of `Instr` stand for a command word: the box radius fits its four bits (spec 30_encoding.md R113). -/

namespace Sys2Proof

/-- The one operand check the types leave: `BOXSUM` carries a radius in 0..15 (R113, form `Q`). -/
def Instr.wellFormed : Instr → Bool
  | .boxsum _ r => decide (r ≤ 15)
  | .nop => true
  | .buildII => true
  | .calcAb _ => true
  | .calcAbFast _ => true
  | .finalFilter _ => true
  | .finalFilterFast _ => true
  | .blend => true
  | .restore => true
  | .apply => true
  | .clr => true
  | .srst => true

end Sys2Proof
end

