-- ==== Sys2Proof/Decode.lean ====
section
/-! DEFINITION. Decoding of a command word by the match and mask table of spec 30_encoding.md R116 and R117, and the encoder
written from the same table. -/

namespace Sys2Proof

/-- Form `K` (R113): bit 0 is the radius slot. -/
def slotField (w : Word) : Slot :=
  if w.getLsbD 0 then .slot1 else .slot0

/-- Form `Q` (R113): bit 0 is the channel. -/
def channelField (w : Word) : Channel :=
  if w.getLsbD 0 then .squares else .sums

/-- Form `Q` (R113): bits [7:4] are the box radius. -/
def radiusField (w : Word) : Nat :=
  (w.extractLsb' 4 4).toNat

/-- One row of the table of R117. -/
structure EncodingRow where
  pattern : Word
  mask : Word
  build : Word → Instr

/-- The table of R117, in its order. -/
def encodingTable : List EncodingRow :=
  [ ⟨0x00000000#32, 0xFFFFFFFF#32, fun _ => .nop⟩,
    ⟨0x01000000#32, 0xFFFFFFFF#32, fun _ => .buildII⟩,
    ⟨0x02000000#32, 0xFFFFFF0E#32, fun w => .boxsum (channelField w) (radiusField w)⟩,
    ⟨0x03000000#32, 0xFFFFFFFE#32, fun w => .calcAb (slotField w)⟩,
    ⟨0x04000000#32, 0xFFFFFFFE#32, fun w => .calcAbFast (slotField w)⟩,
    ⟨0x05000000#32, 0xFFFFFFFE#32, fun w => .finalFilter (slotField w)⟩,
    ⟨0x06000000#32, 0xFFFFFFFE#32, fun w => .finalFilterFast (slotField w)⟩,
    ⟨0x07000000#32, 0xFFFFFFFF#32, fun _ => .blend⟩,
    ⟨0x08000000#32, 0xFFFFFFFF#32, fun _ => .restore⟩,
    ⟨0x09000000#32, 0xFFFFFFFF#32, fun _ => .apply⟩,
    ⟨0xFE000000#32, 0xFFFFFFFF#32, fun _ => .clr⟩,
    ⟨0xFF000000#32, 0xFFFFFFFF#32, fun _ => .srst⟩ ]

/-- The decision procedure of R116: the row with `word & mask == match`; a word of no row is illegal. -/
def decode (w : Word) : Option Instr :=
  (encodingTable.find? fun row => w &&& row.mask == row.pattern).map fun row => row.build w

/-- The instruction the decoder reads from a table word of `nbits` bits; the block has one 32-bit format only (R110). -/
def decodeTableWord (nbits w : Nat) : Option Instr :=
  if w % 2 ^ nbits < 2 ^ 32 then decode (BitVec.ofNat 32 (w % 2 ^ nbits)) else none

/-- The slot as operand bit 0 (R113). -/
def Slot.bit : Slot → Word
  | .slot0 => 0#32
  | .slot1 => 1#32

/-- The channel as operand bit 0 (R113). -/
def Channel.bit : Channel → Word
  | .sums => 0#32
  | .squares => 1#32

/-- The command word of a well-formed command (R112, R113, R117). -/
def encode : Instr → Word
  | .nop => 0x00000000#32
  | .buildII => 0x01000000#32
  | .boxsum ch r => 0x02000000#32 ||| BitVec.ofNat 32 (r % 16 * 16) ||| ch.bit
  | .calcAb k => 0x03000000#32 ||| k.bit
  | .calcAbFast k => 0x04000000#32 ||| k.bit
  | .finalFilter k => 0x05000000#32 ||| k.bit
  | .finalFilterFast k => 0x06000000#32 ||| k.bit
  | .blend => 0x07000000#32
  | .restore => 0x08000000#32
  | .apply => 0x09000000#32
  | .clr => 0xFE000000#32
  | .srst => 0xFF000000#32

/-- The `opcode` field, bits [31:24] (R111). -/
def opcodeField (w : Word) : BitVec 8 :=
  w.extractLsb' 24 8

end Sys2Proof
end

