-- ==== Sys2Proof/Config.lean ====
section
/-! DEFINITION. The implementation parameters of spec 00_scope.md R6 and R9 as one record, its legality (R6, R32, R40, R45 to R47),
the record the reset state carries, and the free values (draws) of R42, R83 and R163. -/

namespace Sys2Proof.Config

/-- One entry `(r0, r1, s0, s1)` of `ROM_PARAMS`: two radii and two strengths, 32 bits each (R47). -/
structure ParamSet where
  r0 : Word
  r1 : Word
  s0 : Word
  s1 : Word
deriving DecidableEq, Repr

/-- The parameter record `P` of R6 with the contents of the three read-only memories (R9, R44). `N_PARAMS` is the length of
`romParams`; `SGR`, `R_MAX` and `N_MAX` are derived below. -/
structure Params where
  borderH : Nat
  borderV : Nat
  sgrBits : Nat
  rstBits : Nat
  prjBits : Nat
  mtableBits : Nat
  recipBits : Nat
  zpad : Nat
  wMax : Nat
  hMax : Nat
  srcCells : Nat
  dstCells : Nat
  bufCells : Nat
  fltCells : Nat
  depths : List Nat
  romRecip : List Half
  romXbx : List Half
  romParams : List ParamSet
deriving DecidableEq, Repr

/-- `NB`, log2 of the precise kernel's weight sum (R6). -/
def nb : Nat := 5

/-- `NB0`, log2 of the fast even-row kernel's weight sum (R6). -/
def nb0 : Nat := 5

/-- `NB1`, log2 of the fast odd-row kernel's weight sum (R6). -/
def nb1 : Nat := 4

/-- `Z_MAX`, the largest table index (R6). -/
def zMax : Nat := 255

/-- `SGR = 1 << SGR_BITS` (R7). -/
def Params.sgr (P : Params) : Nat := 2 ^ P.sgrBits

/-- `R_MAX = min(BORDER_H, BORDER_V) - 1` (R6, R257). -/
def Params.rMax (P : Params) : Nat := min P.borderH P.borderV - 1

/-- `N_MAX = (2*R_MAX + 1)^2` (R6). -/
def Params.nMax (P : Params) : Nat := (2 * P.rMax + 1) ^ 2

/-- `N_PARAMS`, the number of parameter sets (R6). -/
def Params.nParams (P : Params) : Nat := P.romParams.length

/-- The constraints of R6, as narrowed by R32, the sizes of R78 and the table lengths of R40. -/
abbrev Params.wf (P : Params) : Prop :=
  (1 ≤ P.borderH ∧ P.borderH ≤ 15) ∧ (1 ≤ P.borderV ∧ P.borderV ≤ 15) ∧
  (1 ≤ P.sgrBits ∧ P.sgrBits ≤ 15) ∧ (P.rstBits ≤ 15 ∧ P.rstBits ≤ P.sgrBits + nb1) ∧
  (P.prjBits ≤ 15 ∧ P.prjBits + P.rstBits ≤ 31) ∧ (1 ≤ P.mtableBits ∧ P.mtableBits ≤ 31) ∧
  P.recipBits = 12 ∧ (1 ≤ P.nParams ∧ P.nParams ≤ 256) ∧ (2 * P.rMax + 1 ≤ P.zpad ∧ P.zpad ≤ 255) ∧
  P.wMax ≤ 65535 ∧ P.hMax ≤ 65535 ∧
  P.srcCells ≤ 2 ^ 18 ∧ P.dstCells ≤ 2 ^ 18 ∧ P.bufCells ≤ 2 ^ 18 ∧ P.fltCells ≤ 2 ^ 18 ∧
  (8 ∈ P.depths ∧ (∀ d ∈ P.depths, 8 ≤ d ∧ d ≤ 12)) ∧
  P.romRecip.length = P.nMax ∧ P.romXbx.length = 256

/-- The radii `1 .. R_MAX`. -/
def Params.radii (P : Params) : List Nat := List.range' 1 P.rMax

/-- The bound on the noise estimate `p` for window count `n` at depth `d` (R173, last sentences). -/
def noiseBound (d n : Nat) : Nat :=
  if d = 8 then n ^ 2 / 4 * 255 ^ 2
  else
    let q := 2 ^ (d - 8)
    let m := 2 ^ d - 1
    (2 * (n ^ 2 / 4) * m ^ 2 + 2 * n * m * q + n * q ^ 2) / (2 * q ^ 2)

/-- The content legality of `ROM_RECIP` (R45). -/
abbrev Params.recipLegal (P : Params) : Prop := ∀ h ∈ P.romRecip, h.toNat < 2 ^ 15

/-- The content legality of `ROM_XBX` (R46). -/
abbrev Params.xbxLegal (P : Params) : Prop :=
  ∀ h ∈ P.romXbx, h.toNat ≤ P.sgr ∧
    ∀ r ∈ P.radii, ∀ d ∈ P.depths,
      (P.sgr - h.toNat) * (P.romRecip.getD ((2 * r + 1) ^ 2 - 1) 0).toNat * (2 * r + 1) ^ 2 * (2 ^ d - 1)
        + 2 ^ (P.recipBits - 1) < 2 ^ 32

/-- One slot's part of R47: if the slot is active (its radius is not 0, R16), the index product of its strength does not wrap at any
legal depth. The rule asks it of a radius that the block refuses (R257) too. -/
abbrev Params.strengthLegal (P : Params) (r s : Word) : Prop :=
  0 < r.toNat → ∀ d ∈ P.depths,
    noiseBound d ((2 * r.toNat + 1) ^ 2) * s.toNat + 2 ^ (P.mtableBits - 1) < 2 ^ 32

/-- The content legality of `ROM_PARAMS` (R47): every active slot of every entry, also of one that R256 or R257 refuses. -/
abbrev Params.paramsLegal (P : Params) : Prop :=
  ∀ e ∈ P.romParams, P.strengthLegal e.r0 e.s0 ∧ P.strengthLegal e.r1 e.s1

/-- The legality of all three read-only memories (R45 to R47); a content that breaks it is no error of the block (R260). -/
abbrev Params.romLegal (P : Params) : Prop := P.recipLegal ∧ P.xbxLegal ∧ P.paramsLegal

/-- `ROM_RECIP` of the record `TV` (93_implementation_defined.md G2). PRESUMED: log entry 2. -/
def testRecip : List Half :=
  [4096, 2048, 1365, 1024, 819, 683, 585, 512, 455, 410, 372, 341, 315] ++
  [293, 273, 256, 241, 228, 216, 205, 195, 186, 178, 171, 164]

/-- `ROM_XBX` of the record `TV`, row by row as G3 prints it. PRESUMED: log entry 2. -/
def testXbx : List Half :=
  [1, 128, 171, 192, 205, 213, 219, 224, 228, 230, 233, 235, 236, 238, 239, 240] ++
  [241, 242, 243, 243, 244, 244, 245, 245, 246, 246, 247, 247, 247, 247, 248, 248] ++
  [248, 248, 249, 249, 249, 249, 249, 250, 250, 250, 250, 250, 250, 250, 251, 251] ++
  [251, 251, 251, 251, 251, 251, 251, 251, 252, 252, 252, 252, 252, 252, 252, 252] ++
  List.replicate 9 252 ++ List.replicate 7 253 ++ List.replicate 16 253 ++
  List.replicate 6 253 ++ List.replicate 10 254 ++ List.replicate 48 254 ++
  List.replicate 10 254 ++ List.replicate 6 255 ++ List.replicate 64 255 ++
  List.replicate 15 255 ++ [256]

/-- `ROM_PARAMS` of the record `TV` (G4); `-1` marks a strength that is never read. PRESUMED: log entry 2. -/
def testParamSets : List ParamSet :=
  [⟨2, 1, 140, 3236⟩, ⟨2, 1, 112, 2158⟩, ⟨2, 1, 93, 1618⟩, ⟨2, 1, 80, 1438⟩] ++
  [⟨2, 1, 70, 1295⟩, ⟨2, 1, 58, 1177⟩, ⟨2, 1, 47, 1079⟩, ⟨2, 1, 37, 996⟩] ++
  [⟨2, 1, 30, 925⟩, ⟨2, 1, 25, 863⟩, ⟨0, 1, -1, 2589⟩, ⟨0, 1, -1, 1618⟩] ++
  [⟨0, 1, -1, 1177⟩, ⟨0, 1, -1, 925⟩, ⟨2, 0, 56, -1⟩, ⟨2, 0, 22, -1⟩]

/-- The test record `TV` (95_test_vectors.md), the record the reset state carries. PRESUMED: log entry 2. -/
def testRecord : Params where
  borderH := 3
  borderV := 3
  sgrBits := 8
  rstBits := 4
  prjBits := 7
  mtableBits := 20
  recipBits := 12
  zpad := 8
  wMax := 64
  hMax := 64
  srcCells := 8192
  dstCells := 8192
  bufCells := 8192
  fltCells := 4096
  depths := [8, 10, 12]
  romRecip := testRecip
  romXbx := testXbx
  romParams := testParamSets

/-- The six grids of 32-bit cells (R40). -/
inductive Grid where
  | c
  | d
  | a
  | b
  | flt0
  | flt1
deriving DecidableEq, Repr

/-- The two planes of 16-bit cells (R40). -/
inductive Plane where
  | src
  | dst
deriving DecidableEq, Repr

/-- The eight read-write memories (R40). -/
inductive Ram where
  | plane (p : Plane)
  | grid (g : Grid)
deriving DecidableEq, Repr

/-- What a draw is drawn for. `cell` is the read of the never-written cell `addr` of a memory made while the output cell `site`
is computed (R42); `boxsum` is the result of an out-of-contract `BOXSUM` (R163); `port` is a host read of a RAM aperture while
the block is busy (R83). -/
inductive DrawSite where
  | cell (m : Ram) (addr site : Nat)
  | boxsum
  | port
deriving DecidableEq, Repr

/-- THE FREE VALUE: the draw number `n` made for a place. It has no body, so nothing can be proved of its value.
DESIGN CHOICE, safe: log entry 3. -/
opaque draw : (n : Nat) → DrawSite → Word

end Sys2Proof.Config
end

