-- ==== Sys2Proof/Machine/State.lean ====
section
/-! DEFINITION. The state of one `SGRDP` block (spec 10_state.md R20), the host's coming accesses, the reasons a step stops, and
the state after reset (70_reset_and_hazards.md R280, R281). -/

namespace Sys2Proof.Machine

open Sys2Proof.Config

/-- A memory: the cells written since reset, as (cell address, value) pairs. An address that is not listed has no value (R42). The
cell is the smallest addressable unit (R16, R40), so an entry is a cell, not a byte: log entry 4. -/
abbrev Memory (w : Nat) := List (Nat × BitVec w)

/-- The canonical form of a memory: addresses strictly rising. -/
abbrev Memory.wf {w : Nat} (m : Memory w) : Prop := m.Pairwise fun p q => p.1 < q.1

/-- The operand registers that a command's snapshot holds, each with its implemented bits only (R21 to R29, R38). -/
structure OperandRegs where
  width : BitVec 16
  height : BitVec 16
  srcStride : BitVec 16
  bufStride : BitVec 16
  bitDepth : BitVec 5
  hbd : Bool
  paramIdx : BitVec 8
  xq0 : Word
  xq1 : Word
  qx : BitVec 16
  qy : BitVec 16
deriving DecidableEq, Repr

/-- The operand registers after reset: all 0 (R38, R55). -/
def OperandRegs.reset : OperandRegs where
  width := 0
  height := 0
  srcStride := 0
  bufStride := 0
  bitDepth := 0
  hbd := false
  paramIdx := 0
  xq0 := 0
  xq1 := 0
  qx := 0
  qy := 0

/-- The hidden register `PENDING` when it holds a command: the accepted word and the snapshot (R51). -/
structure Pending where
  word : Word
  regs : OperandRegs
deriving DecidableEq, Repr

/-- What happens next at the block's boundary (R18, R80, R280). A bus address is the port's word address, the byte offset of R78
divided by 4, because the port has no address bits [1:0] (R80). -/
inductive HostEvent where
  /-- An aligned 32-bit write. -/
  | write (addr : BitVec 22) (value : Word)
  /-- An aligned 32-bit read. -/
  | read (addr : BitVec 22)
  /-- The reset input `rst` is asserted and released (R280). -/
  | rst
  /-- The host makes no access and the sequencer may take its step (R85). -/
  | grant
deriving DecidableEq, Repr

/-- The error codes of R250. -/
inductive ErrCode where
  | illegalCmd
  | bitDepth
  | geometry
  | paramIdx
  | bothZero
  | radius
  | slotInactive
deriving DecidableEq, Repr

/-- The registers of the map of R38. -/
inductive Reg where
  | id
  | cap0
  | cap1
  | cmd
  | status
  | irqEn
  | errCmd
  | cap2
  | width
  | height
  | srcStride
  | bufStride
  | depth
  | paramIdx
  | xq0
  | xq1
  | qx
  | qy
  | result
deriving DecidableEq, Repr

/-- What a bus address reaches (R38, R39, R78). -/
inductive Target where
  | reg (r : Reg)
  | reserved
  | ram (m : Ram) (cell : Nat)
  | rom (value : Word)
  | outside
deriving DecidableEq, Repr

/-- Why the machine stops. -/
inductive Fault where
  /-- Raised by a host access whose word address lies beyond the block's 12 MiB (R78): no such place exists. SAFE: no run goes on.
  Log entry 11. -/
  | outsideBlock
  /-- Raised by the sequencer's turn when `PENDING` holds a word that is no operation command. R84 never puts one there, and the
  invariant of Safety.lean rules it out. SAFE: no run goes on. Log entry 12. -/
  | pendingNotOperation
deriving DecidableEq, Repr

/-- Why the model gives no meaning. -/
inductive Refusal where
  /-- An instruction without a meaning in the model; no arm of `exec` answers it. SAFE: no run goes on. -/
  | notModelled (mnemonic : String)
deriving DecidableEq, Repr

/-- The state of the block, its parameter record, and the three fields that are the model's own (`rdata`, `draws`, `script`).
`STATUS.BUSY` is `pending.isSome` (R34, R51); `ID`, `CMD` and `CAP0` to `CAP2` hold nothing of their own (R31 to R33). -/
@[ext]
structure State where
  /-- The parameter record `P` with the three ROMs (R6, R9, R44); no step changes it. -/
  cfg : Params
  /-- `WIDTH` to `QY` (R22 to R29). -/
  regs : OperandRegs
  /-- `RESULT` (R30). -/
  result : Word
  /-- `PENDING` (R51) and with it `STATUS.BUSY`. -/
  pending : Option Pending
  /-- `STATUS.DONE` (R34). -/
  done : Bool
  /-- `STATUS.ERR` (R34). -/
  err : Bool
  /-- `STATUS.DROPPED` (R34). -/
  dropped : Bool
  /-- `STATUS.ERRCODE` (R34, R250). -/
  errCode : BitVec 4
  /-- `ERRCMD` (R37). -/
  errCmd : Word
  /-- `IRQ_EN.DONE_IE` (R36). -/
  doneIe : Bool
  /-- `IRQ_EN.ERR_IE` (R36). -/
  errIe : Bool
  /-- Memory `SRC` (R40). -/
  src : Memory 16
  /-- Memory `DST` (R40). -/
  dst : Memory 16
  /-- Memory `C`, the integral image of squares (R40). -/
  gridC : Memory 32
  /-- Memory `D`, the integral image of samples (R40). -/
  gridD : Memory 32
  /-- Memory `A`, the slopes (R40). -/
  gridA : Memory 32
  /-- Memory `B`, the intercepts (R40). -/
  gridB : Memory 32
  /-- Memory `FLT0` (R40, R206). -/
  flt0 : Memory 32
  /-- Memory `FLT1` (R40, R206). -/
  flt1 : Memory 32
  /-- The accumulator `LEFT1` (R50). Its reset value is the model's: DESIGN CHOICE, log entry 7. -/
  left1 : Word
  /-- The accumulator `LEFT2` (R50), likewise. -/
  left2 : Word
  /-- MODEL'S OWN: the word the port returned on the last host read (R80). Reset 0: DESIGN CHOICE, log entry 8. -/
  rdata : Word
  /-- MODEL'S OWN: how many draws have been made; the argument of `Config.draw`. Reset 0: DESIGN CHOICE, log entry 15. -/
  draws : Nat
  /-- MODEL'S OWN: what comes next at the block's boundary, the first first (R18). Log entries 1 and 13. -/
  script : List HostEvent
deriving DecidableEq, Repr

/-- The block after reset (R55, R280, R281): registers 0, `PENDING` empty, no RAM cell with a value. -/
def State.reset : State where
  cfg := testRecord
  regs := OperandRegs.reset
  result := 0
  pending := none
  done := false
  err := false
  dropped := false
  errCode := 0
  errCmd := 0
  doneIe := false
  errIe := false
  src := []
  dst := []
  gridC := []
  gridD := []
  gridA := []
  gridB := []
  flt0 := []
  flt1 := []
  left1 := 0
  left2 := 0
  rdata := 0
  draws := 0
  script := []

/-- What one step of the machine does: a command acts, the boundary acts on its own, or the machine stops. -/
inductive Action where
  | run (i : Instr)
  | advance (s : State)
  | stop (f : Fault)
deriving DecidableEq, Repr

end Sys2Proof.Machine
end

