-- ==== Sys2Proof/Machine/Operands.lean ====
section
/-! DEFINITION. What the operand registers and the parameter record select: derived sizes, the parameter set, and the address
functions of spec 20_memory.md R71 to R77. -/

namespace Sys2Proof.Machine

open Sys2Proof.Config

/-- `width_ext = WIDTH + 2*BORDER_H` (R22). -/
def widthExt (P : Params) (r : OperandRegs) : Nat := r.width.toNat + 2 * P.borderH

/-- `height_ext = HEIGHT + 2*BORDER_V` (R23). -/
def heightExt (P : Params) (r : OperandRegs) : Nat := r.height.toNat + 2 * P.borderV

/-- `ROM_RECIP[n-1]` (R77); an index beyond the table, which no accepted command of a legal record forms, reads 0 (DESIGN CHOICE,
log entry 14). -/
def recipEntry (P : Params) (n : Nat) : Half := P.romRecip.getD (n - 1) 0

/-- `ROM_XBX[z]` (R77). -/
def xbxEntry (P : Params) (z : Nat) : Half := P.romXbx.getD z 0

/-- The set `(r0, r1, s0, s1) = MemRead(ROM_PARAMS, PARAM_IDX)` (R27); R255 keeps the index below `N_PARAMS`. -/
def paramSet (P : Params) (r : OperandRegs) : ParamSet := P.romParams.getD r.paramIdx.toNat ⟨0, 0, 0, 0⟩

/-- The radius `rk` of a slot, unsigned (R47, R114). -/
def slotRadius (P : Params) (r : OperandRegs) : Slot → Nat
  | .slot0 => (paramSet P r).r0.toNat
  | .slot1 => (paramSet P r).r1.toNat

/-- The strength `sk` of a slot (R47, R114). -/
def slotStrength (P : Params) (r : OperandRegs) : Slot → Word
  | .slot0 => (paramSet P r).s0
  | .slot1 => (paramSet P r).s1

/-- `src_addr(i, j)` (R71). -/
def srcAddr (P : Params) (r : OperandRegs) (i j : Int) : Nat :=
  ((i + P.borderV) * r.srcStride.toNat + (j + P.borderH)).toNat

/-- `dst_addr(i, j)` (R72). -/
def dstAddr (P : Params) (r : OperandRegs) (i j : Int) : Nat :=
  ((i + P.borderV) * r.srcStride.toNat + (j + P.borderH)).toNat

/-- `ii_addr(y, x)` (R73). -/
def iiAddr (r : OperandRegs) (y x : Nat) : Nat := y * r.bufStride.toNat + x

/-- `pos_addr(i, j)` (R74). -/
def posAddr (P : Params) (r : OperandRegs) (i j : Int) : Nat :=
  ((i + P.borderV + 1) * r.bufStride.toNat + (j + P.borderH + 1)).toNat

/-- `flt_addr(i, j)` (R76). -/
def fltAddr (r : OperandRegs) (i j : Nat) : Nat := i * r.width.toNat + j

/-- The candidate buffer `FLTk` of a slot (R114). -/
def fltGrid : Slot → Grid
  | .slot0 => .flt0
  | .slot1 => .flt1

/-- The image a channel selects: 0 is `D`, 1 is `C` (R113, R162). -/
def channelGrid : Channel → Grid
  | .sums => .d
  | .squares => .c

/-- The positions of `rows` by `cols`, row by row (R12). -/
def positions {α : Type} (rows cols : List α) : List (α × α) :=
  rows.flatMap fun i => cols.map fun j => (i, j)

/-- The coordinates `-1 .. n` of the window extended by one (R179). -/
def windowRange (n : Nat) : List Int := (List.range (n + 2)).map fun w : Nat => (w : Int) - 1

/-- The logical rows `-1, 1, 3, ...` up to `n` (R181, R182). -/
def fastRange (n : Nat) : List Int := (List.range ((n + 1) / 2 + 1)).map fun m : Nat => 2 * (m : Int) - 1

/-- The estimator's window, every row (R170, R179). -/
def preciseWindow (r : OperandRegs) : List (Int × Int) :=
  positions (windowRange r.height.toNat) (windowRange r.width.toNat)

/-- The estimator's window, every other row (R181). -/
def fastWindow (r : OperandRegs) : List (Int × Int) :=
  positions (fastRange r.height.toNat) (windowRange r.width.toNat)

/-- The processing unit's own positions (R13). -/
def unitPositions (r : OperandRegs) : List (Nat × Nat) :=
  positions (List.range r.height.toNat) (List.range r.width.toNat)

end Sys2Proof.Machine
end

