-- ==== Sys2Proof/Machine/Checks.lean ====
section
/-! DEFINITION. The checks a command undergoes when it is written (spec 60_exceptions.md R251 to R259). -/

namespace Sys2Proof.Machine

open Sys2Proof.Config

/-- The nine operation commands, those that go through `PENDING` (R84); the other three act in the acceptance step. -/
def isOperation : Instr → Bool
  | .nop => false
  | .buildII => true
  | .boxsum _ _ => true
  | .calcAb _ => true
  | .calcAbFast _ => true
  | .finalFilter _ => true
  | .finalFilterFast _ => true
  | .blend => true
  | .restore => true
  | .apply => true
  | .clr => false
  | .srst => false

/-- The radius slot a slot primitive names (R258). -/
def namedSlot : Instr → Option Slot
  | .nop => none
  | .buildII => none
  | .boxsum _ _ => none
  | .calcAb k => some k
  | .calcAbFast k => some k
  | .finalFilter k => some k
  | .finalFilterFast k => some k
  | .blend => none
  | .restore => none
  | .apply => none
  | .clr => none
  | .srst => none

/-- `DEPTH` is legal (R26, R253). -/
def depthLegal (P : Params) (r : OperandRegs) : Bool :=
  P.depths.contains r.bitDepth.toNat && (r.bitDepth.toNat ≤ 8 || r.hbd)

/-- The eight conditions of R254. -/
def geometryLegal (P : Params) (r : OperandRegs) : Bool :=
  decide (1 ≤ r.width.toNat ∧ r.width.toNat ≤ P.wMax) &&
  decide (1 ≤ r.height.toNat ∧ r.height.toNat ≤ P.hMax) &&
  decide (widthExt P r ≤ r.srcStride.toNat) &&
  decide (widthExt P r + 1 + P.zpad ≤ r.bufStride.toNat) &&
  decide ((heightExt P r - 1) * r.srcStride.toNat + widthExt P r ≤ P.srcCells) &&
  decide ((P.borderV + r.height.toNat - 1) * r.srcStride.toNat + P.borderH + r.width.toNat ≤ P.dstCells) &&
  decide ((heightExt P r + 1) * r.bufStride.toNat ≤ P.bufCells) &&
  decide (r.width.toNat * r.height.toNat ≤ P.fltCells)

/-- `PARAM_IDX < N_PARAMS` (R27, R255). -/
def paramIdxLegal (P : Params) (r : OperandRegs) : Bool := decide (r.paramIdx.toNat < P.nParams)

/-- A radius is 0 or below the border in both dimensions (R257). -/
def radiusLegal (P : Params) (rad : Nat) : Bool := rad == 0 || decide (rad < P.borderH ∧ rad < P.borderV)

/-- Whether the check with this code fails for the command on these registers (R252 to R258). A decoded command never fails the
first check (R252): an illegal word is refused before there is a command. -/
def checkFails (i : Instr) (P : Params) (r : OperandRegs) : ErrCode → Bool
  | .illegalCmd => false
  | .bitDepth => !depthLegal P r
  | .geometry => !geometryLegal P r
  | .paramIdx => !paramIdxLegal P r
  | .bothZero => slotRadius P r .slot0 == 0 && slotRadius P r .slot1 == 0
  | .radius => !(radiusLegal P (slotRadius P r .slot0) && radiusLegal P (slotRadius P r .slot1))
  | .slotInactive =>
    match namedSlot i with
    | some k => slotRadius P r k == 0
    | none => false

/-- The checks of the geometry commands that read no parameter set (R259). -/
def geometryChecks : List ErrCode := [.illegalCmd, .bitDepth, .geometry]

/-- The checks of the commands that read a parameter set (R259). -/
def paramChecks : List ErrCode := [.illegalCmd, .bitDepth, .geometry, .paramIdx, .bothZero, .radius]

/-- The checks of the slot primitives (R259). -/
def slotChecks : List ErrCode := [.illegalCmd, .bitDepth, .geometry, .paramIdx, .bothZero, .radius, .slotInactive]

/-- The table of R259: the checks that apply to a command, in increasing code order. -/
def checksOf : Instr → List ErrCode
  | .nop => [.illegalCmd]
  | .buildII => geometryChecks
  | .boxsum _ _ => geometryChecks
  | .calcAb _ => slotChecks
  | .calcAbFast _ => slotChecks
  | .finalFilter _ => slotChecks
  | .finalFilterFast _ => slotChecks
  | .blend => paramChecks
  | .restore => paramChecks
  | .apply => paramChecks
  | .clr => [.illegalCmd]
  | .srst => [.illegalCmd]

/-- The check procedure of R251: the first check that fails, none when the command is accepted. -/
def firstFailure (i : Instr) (P : Params) (r : OperandRegs) : Option ErrCode :=
  (checksOf i).find? fun e => checkFails i P r e

end Sys2Proof.Machine
end

