-- ==== Sys2Proof/Machine/Flags.lean ====
section
/-! DEFINITION. `STATUS`, the interrupt output and the flag updates of spec 10_state.md R34, R36 and 60_exceptions.md R262 to R266. -/

namespace Sys2Proof.Machine

/-- `STATUS.BUSY`: `PENDING` holds a command (R34, R51). -/
def State.busy (s : State) : Bool := s.pending.isSome

/-- The word a read of `STATUS` returns (R34). -/
def State.statusWord (s : State) : Word :=
  0#20 ++ s.errCode ++ 0#4 ++ BitVec.ofBool s.dropped ++ BitVec.ofBool s.err ++ BitVec.ofBool s.done ++ BitVec.ofBool s.busy

/-- The output `irq`, a function of the registers (R36, R265). -/
def State.irq (s : State) : Bool := (s.done && s.doneIe) || (s.err && s.errIe)

/-- The codes of R250. -/
def ErrCode.code : ErrCode → BitVec 4
  | .illegalCmd => 1
  | .bitDepth => 2
  | .geometry => 3
  | .paramIdx => 4
  | .bothZero => 5
  | .radius => 6
  | .slotInactive => 7

/-- A dropped write: only `STATUS.DROPPED` changes (R83, R263, R264). -/
def dropWrite (s : State) : State := { s with dropped := true }

/-- Error entry, `raise Error(code)` on the word `w` (R262): nothing else changes. -/
def raiseError (e : ErrCode) (w : Word) (s : State) : State :=
  { s with err := true, errCode := e.code, errCmd := w }

/-- Return from the error state, the effect of `CLR` (R234, R266). -/
def clearFlags (s : State) : State :=
  { s with done := false, err := false, dropped := false, errCode := 0, errCmd := 0 }

/-- The completion of the running command: `BUSY <- 0`, `DONE <- 1`, `PENDING` emptied (R85). -/
def complete (s : State) : State := { s with pending := none, done := true }

end Sys2Proof.Machine
end

