-- ==== Sys2Proof/Machine/Ops.lean ====
section
/-! DEFINITION. The operations over the memories, the acceptance and the completion of a command (spec 10_state.md R42, R43;
20_memory.md R84, R85). Error entry and the return from it are in Flags.lean, the checks in Checks.lean. -/

namespace Sys2Proof.Machine

open Sys2Proof.Config

/-- The value a cell holds, none when nothing has written it since reset (R42). -/
def Memory.get? {w : Nat} : Memory w → Nat → Option (BitVec w)
  | [], _ => none
  | (k, v) :: m, a => if k = a then some v else Memory.get? m a

/-- A write of one cell (`MemWrite`, R12), keeping the addresses strictly rising. -/
def Memory.set {w : Nat} : Memory w → Nat → BitVec w → Memory w
  | [], a, v => [(a, v)]
  | (k, u) :: m, a, v =>
    if a < k then (a, v) :: (k, u) :: m
    else if a = k then (a, v) :: m
    else (k, u) :: Memory.set m a v

/-- The writes of a list, the first first. -/
def Memory.setAll {w : Nat} (m : Memory w) (writes : List (Nat × BitVec w)) : Memory w :=
  writes.foldl (fun acc p => Memory.set acc p.1 p.2) m

/-- The memory behind a grid name. -/
def State.grid (s : State) : Grid → Memory 32
  | .c => s.gridC
  | .d => s.gridD
  | .a => s.gridA
  | .b => s.gridB
  | .flt0 => s.flt0
  | .flt1 => s.flt1

/-- The state with another content of one grid. -/
def State.setGrid (s : State) (g : Grid) (m : Memory 32) : State :=
  match g with
  | .c => { s with gridC := m }
  | .d => { s with gridD := m }
  | .a => { s with gridA := m }
  | .b => { s with gridB := m }
  | .flt0 => { s with flt0 := m }
  | .flt1 => { s with flt1 := m }

/-- The memory behind a plane name. -/
def State.plane (s : State) : Plane → Memory 16
  | .src => s.src
  | .dst => s.dst

/-- The state with another content of one plane. -/
def State.setPlane (s : State) (p : Plane) (m : Memory 16) : State :=
  match p with
  | .src => { s with src := m }
  | .dst => { s with dst := m }

/-- `MemRead(M, a)` of a grid. A cell nothing has written is a draw of its own for every output cell `site` it is read for (R42). -/
def State.readGrid (s : State) (g : Grid) (a site : Nat) : Word :=
  match Memory.get? (s.grid g) a with
  | some v => v
  | none => draw s.draws (.cell (.grid g) a site)

/-- `MemRead(M, a)` of a plane, with the same draws. -/
def State.readPlane (s : State) (p : Plane) (a site : Nat) : Half :=
  match Memory.get? (s.plane p) a with
  | some v => v
  | none => (draw s.draws (.cell (.plane p) a site)).setWidth 16

/-- `sample(a)`: the low `BIT_DEPTH` bits of a `SRC` cell, widened with zeros (R43, R82). -/
def State.sample (s : State) (r : OperandRegs) (a site : Nat) : Word :=
  BitVec.ofNat 32 ((s.readPlane .src a site).toNat % 2 ^ r.bitDepth.toNat)

/-- `src(i, j)` (R71). -/
def State.srcSample (s : State) (r : OperandRegs) (i j : Int) (site : Nat) : Word :=
  s.sample r (srcAddr s.cfg r i j) site

/-- `M@(i, j)` (R74). -/
def State.at (s : State) (r : OperandRegs) (g : Grid) (site : Nat) (i j : Int) : Word :=
  s.readGrid g (posAddr s.cfg r i j) site

/-- The end of a stage that may have made draws: the next stage's draws are others. -/
def State.nextDraws (s : State) : State := { s with draws := s.draws + 1 }

/-- The acceptance of an operation command while the block is idle (R84): dropped in the error state, refused by the first check
that fails, and otherwise held in `PENDING` with the snapshot of the operand registers. -/
def accept (i : Instr) (s : State) : State :=
  if s.err then dropWrite s
  else
    match firstFailure i s.cfg s.regs with
    | some e => raiseError e (encode i) s
    | none => { s with pending := some ⟨encode i, s.regs⟩, done := false }

/-- The next thing an operation command does: its acceptance when the block is idle (R84), and when it is pending the sequencer's
step, which performs the command's body on the snapshot and completes it (R85). -/
def operation (i : Instr) (body : OperandRegs → State → State) (s : State) : Host.Outcome State Fault Refusal :=
  match s.pending with
  | none => .next (accept i s)
  | some p => .next (complete (body p.regs s))

/-- A control command, which acts in its acceptance step (R84 step 3); while the block is busy its write is dropped (R263). -/
def controlCommand (effect : State → State) (s : State) : Host.Outcome State Fault Refusal :=
  .next (if s.busy then dropWrite s else effect s)

/-- The registers of a soft or hard reset (R55): operand registers, `RESULT`, `STATUS`, `ERRCMD`, `IRQ_EN` to 0, `PENDING` empty. -/
def resetRegisters (s : State) : State :=
  { s with
    regs := OperandRegs.reset, result := 0, pending := none, done := false, err := false, dropped := false,
    errCode := 0, errCmd := 0, doneIe := false, errIe := false }

/-- The reset input (R280, R281): registers as after `SRST`, a running command abandoned, no RAM cell with a value. The parameter
record stays (R44), and so do the three fields that are the model's own. -/
def hardReset (s : State) : State :=
  { State.reset with cfg := s.cfg, rdata := s.rdata, draws := s.draws, script := s.script }

end Sys2Proof.Machine
end

