-- ==== Sys2Proof/Machine/Bus.lean ====
section
/-! DEFINITION. The host's port: the register map and the apertures (spec 10_state.md R31 to R39; 20_memory.md R78 to R83), and what
the block does next at its boundary (R84, R85, R280). -/

namespace Sys2Proof.Machine

open Sys2Proof.Config

/-- The byte offset of a register (R38). -/
def Reg.offset : Reg → Nat
  | .id => 0x00
  | .cap0 => 0x04
  | .cap1 => 0x08
  | .cmd => 0x0C
  | .status => 0x10
  | .irqEn => 0x14
  | .errCmd => 0x18
  | .cap2 => 0x1C
  | .width => 0x20
  | .height => 0x24
  | .srcStride => 0x28
  | .bufStride => 0x2C
  | .depth => 0x30
  | .paramIdx => 0x34
  | .xq0 => 0x38
  | .xq1 => 0x3C
  | .qx => 0x40
  | .qy => 0x44
  | .result => 0x48

/-- The registers in the order of R38. -/
def registers : List Reg :=
  [.id, .cap0, .cap1, .cmd, .status, .irqEn, .errCmd, .cap2, .width, .height, .srcStride, .bufStride, .depth, .paramIdx,
   .xq0, .xq1, .qx, .qy, .result]

/-- The register at a byte offset; the others of the register space are reserved (R39). -/
def registerAt (offset : Nat) : Option Reg := registers.find? fun x => x.offset == offset

/-- The port's word address of a byte offset (R78, R80). -/
def busAddress (offset : Nat) : BitVec 22 := BitVec.ofNat 22 (offset / 4)

/-- How many cells a read-write memory has (R40). -/
def ramCells (P : Params) : Ram → Nat
  | .plane .src => P.srcCells
  | .plane .dst => P.dstCells
  | .grid .c => P.bufCells
  | .grid .d => P.bufCells
  | .grid .a => P.bufCells
  | .grid .b => P.bufCells
  | .grid .flt0 => P.fltCells
  | .grid .flt1 => P.fltCells

/-- The base offset of a memory's aperture (R78). -/
def ramBase : Ram → Nat
  | .plane .src => 0x100000
  | .plane .dst => 0x200000
  | .grid .c => 0x300000
  | .grid .d => 0x400000
  | .grid .a => 0x500000
  | .grid .b => 0x600000
  | .grid .flt0 => 0x700000
  | .grid .flt1 => 0x800000

/-- A field of a parameter set: 0 `r0`, 1 `r1`, 2 `s0`, 3 `s1` (R78). -/
def paramField (e : ParamSet) (f : Nat) : Word :=
  match f with
  | 0 => e.r0
  | 1 => e.r1
  | 2 => e.s0
  | _ => e.s1

/-- The word of `ROM_PARAMS` at word index `n`, 0 beyond the last entry (R78). -/
def romParamsWord (P : Params) (n : Nat) : Word :=
  match P.romParams[n / 4]? with
  | some e => paramField e (n % 4)
  | none => 0

/-- What a word address reaches: bits [21:18] select the aperture, bits [17:0] the word in it (R78). A ROM word beyond its memory
reads 0. -/
def target (P : Params) (addr : BitVec 22) : Target :=
  let n := addr.toNat % 2 ^ 18
  match addr.toNat / 2 ^ 18 with
  | 0 =>
    match registerAt (4 * n) with
    | some x => .reg x
    | none => .reserved
  | 1 => .ram (.plane .src) n
  | 2 => .ram (.plane .dst) n
  | 3 => .ram (.grid .c) n
  | 4 => .ram (.grid .d) n
  | 5 => .ram (.grid .a) n
  | 6 => .ram (.grid .b) n
  | 7 => .ram (.grid .flt0) n
  | 8 => .ram (.grid .flt1) n
  | 9 => .rom ((P.romRecip.getD n 0).setWidth 32)
  | 10 => .rom ((P.romXbx.getD n 0).setWidth 32)
  | 11 => .rom (romParamsWord P n)
  | _ => .outside

/-- `CAP0` (R32). -/
def cap0Word (P : Params) : Word :=
  0#8 ++ BitVec.ofNat 8 (P.nParams - 1) ++ BitVec.ofNat 8 P.zpad ++ BitVec.ofNat 4 P.borderV ++ BitVec.ofNat 4 P.borderH

/-- The set `DEPTHS` as a mask, bit `d - 8` for depth `d` (R32). -/
def depthMask (P : Params) : BitVec 5 :=
  BitVec.ofBool (P.depths.contains 12) ++ BitVec.ofBool (P.depths.contains 11) ++ BitVec.ofBool (P.depths.contains 10) ++
  BitVec.ofBool (P.depths.contains 9) ++ BitVec.ofBool (P.depths.contains 8)

/-- `CAP1` (R32). -/
def cap1Word (P : Params) : Word :=
  0#3 ++ depthMask P ++ 0#3 ++ BitVec.ofNat 5 P.mtableBits ++ BitVec.ofNat 4 P.recipBits ++ BitVec.ofNat 4 P.prjBits ++
  BitVec.ofNat 4 P.rstBits ++ BitVec.ofNat 4 P.sgrBits

/-- `CAP2` (R32). -/
def cap2Word (P : Params) : Word := BitVec.ofNat 16 P.hMax ++ BitVec.ofNat 16 P.wMax

/-- The word a register read returns (R21 to R38); unimplemented bits read 0, `QX` and `QY` read sign-extended (R29). -/
def readReg (s : State) : Reg → Word
  | .id => 0x53475201#32
  | .cap0 => cap0Word s.cfg
  | .cap1 => cap1Word s.cfg
  | .cmd => 0
  | .status => s.statusWord
  | .irqEn => 0#30 ++ BitVec.ofBool s.errIe ++ BitVec.ofBool s.doneIe
  | .errCmd => s.errCmd
  | .cap2 => cap2Word s.cfg
  | .width => s.regs.width.setWidth 32
  | .height => s.regs.height.setWidth 32
  | .srcStride => s.regs.srcStride.setWidth 32
  | .bufStride => s.regs.bufStride.setWidth 32
  | .depth => 0#23 ++ BitVec.ofBool s.regs.hbd ++ 0#3 ++ s.regs.bitDepth
  | .paramIdx => s.regs.paramIdx.setWidth 32
  | .xq0 => s.regs.xq0
  | .xq1 => s.regs.xq1
  | .qx => s.regs.qx.signExtend 32
  | .qy => s.regs.qy.signExtend 32
  | .result => s.result

/-- A write of a register other than `CMD` while the block is idle (R21, R38): the implemented bits are stored, a read-only
register ignores the write. -/
def writeReg (x : Reg) (v : Word) (s : State) : State :=
  match x with
  | .id => s
  | .cap0 => s
  | .cap1 => s
  | .cmd => s
  | .status => s
  | .irqEn => { s with doneIe := v.getLsbD 0, errIe := v.getLsbD 1 }
  | .errCmd => s
  | .cap2 => s
  | .width => { s with regs := { s.regs with width := v.setWidth 16 } }
  | .height => { s with regs := { s.regs with height := v.setWidth 16 } }
  | .srcStride => { s with regs := { s.regs with srcStride := v.setWidth 16 } }
  | .bufStride => { s with regs := { s.regs with bufStride := v.setWidth 16 } }
  | .depth => { s with regs := { s.regs with bitDepth := v.setWidth 5, hbd := v.getLsbD 8 } }
  | .paramIdx => { s with regs := { s.regs with paramIdx := v.setWidth 8 } }
  | .xq0 => { s with regs := { s.regs with xq0 := v } }
  | .xq1 => { s with regs := { s.regs with xq1 := v } }
  | .qx => { s with regs := { s.regs with qx := v.setWidth 16 } }
  | .qy => { s with regs := { s.regs with qy := v.setWidth 16 } }
  | .result => s

/-- A host write of cell `n` while the block is idle: the bits that fit the cell, nothing beyond the memory's size (R78, R80). -/
def writeRam (m : Ram) (n : Nat) (v : Word) (s : State) : State :=
  if n < ramCells s.cfg m then
    match m with
    | .plane p => s.setPlane p (Memory.set (s.plane p) n (v.setWidth 16))
    | .grid g => s.setGrid g (Memory.set (s.grid g) n v)
  else s

/-- A draw as a host read returns it: any value that fits the cell (R42, R83). -/
def portDraw (s : State) (m : Ram) (site : DrawSite) : Word :=
  match m with
  | .plane _ => ((draw s.draws site).setWidth 16).setWidth 32
  | .grid _ => draw s.draws site

/-- What cell `n` holds, as a host read returns it (R80). -/
def ramWord (s : State) (m : Ram) (n : Nat) : Option Word :=
  match m with
  | .plane p => (Memory.get? (s.plane p) n).map fun v => v.setWidth 32
  | .grid g => Memory.get? (s.grid g) n

/-- A host read of a RAM aperture: a draw while the block is busy (R83), 0 beyond the memory's size (R78), the cell's value, and a
draw for a cell nothing has written (R42). The busy read comes first: DEDUCED, log entry 10. -/
def readRam (m : Ram) (n : Nat) (s : State) : State :=
  if s.busy then State.nextDraws { s with rdata := portDraw s m .port }
  else if n < ramCells s.cfg m then
    match ramWord s m n with
    | some v => { s with rdata := v }
    | none => State.nextDraws { s with rdata := portDraw s m (.cell m n 0) }
  else { s with rdata := 0 }

/-- A host read (R81: no side effect on the block). -/
def hostRead (addr : BitVec 22) (s : State) : Action :=
  match target s.cfg addr with
  | .reg x => .advance { s with rdata := readReg s x }
  | .reserved => .advance { s with rdata := 0 }
  | .ram m n => .advance (readRam m n s)
  | .rom v => .advance { s with rdata := v }
  | .outside => .stop .outsideBlock

/-- An illegal command word written while the block is idle (R84, R252, R264): in the error state it is dropped unless its opcode
field is that of `CLR` or `SRST`. -/
def refuseIllegal (w : Word) (s : State) : State :=
  if s.err && opcodeField w != 0xFE#8 && opcodeField w != 0xFF#8 then dropWrite s else raiseError .illegalCmd w s

/-- A command word written while the block is idle (R84): a legal one acts by its own meaning. -/
def writeCmd (w : Word) (s : State) : Action :=
  match decode w with
  | some i => .run i
  | none => .advance (refuseIllegal w s)

/-- A host write (R81, R83, R84). While the block is busy a write to a register or an aperture is dropped, and a
reserved offset is neither (R39; DEDUCED, log entry 9). -/
def hostWrite (addr : BitVec 22) (v : Word) (s : State) : Action :=
  match target s.cfg addr with
  | .outside => .stop .outsideBlock
  | .reserved => .advance s
  | .rom _ => .advance (if s.busy then dropWrite s else s)
  | .ram m n => .advance (if s.busy then dropWrite s else writeRam m n v s)
  | .reg .cmd => if s.busy then .advance (dropWrite s) else writeCmd v s
  | .reg x => .advance (if s.busy then dropWrite s else writeReg x v s)

/-- The sequencer's turn (R85): the pending command acts; an idle sequencer does nothing. -/
def sequencerTurn (s : State) : Action :=
  match s.pending with
  | none => .advance s
  | some p =>
    match decode p.word with
    | some i => if isOperation i then .run i else .stop .pendingNotOperation
    | none => .stop .pendingNotOperation

/-- What the block does next: the head of the script, and when the host has nothing left to do, the sequencer's turn. -/
def nextAction (s : State) : Action :=
  match s.script with
  | [] => sequencerTurn s
  | .grant :: _ => sequencerTurn s
  | .rst :: _ => .advance (hardReset s)
  | .read addr :: _ => hostRead addr s
  | .write addr v :: _ => hostWrite addr v s

/-- The end of a step: the boundary event that caused it is past. -/
def State.retire (s : State) : State := { s with script := s.script.tail }

end Sys2Proof.Machine
end

