-- ==== Sys2Proof/Machine/Arith.lean ====
section
/-! DEFINITION. The rounding shifts and the clamp of spec 00_scope.md R10 and R11. -/

namespace Sys2Proof.Machine

/-- The rounding constant `rnd(k) = (1 << k) >> 1` (R11). -/
def roundBias (k : Nat) : Word := BitVec.ofNat 32 (2 ^ k / 2)

/-- `rshr_u(x, k)`: the unsigned rounding shift of the coefficient engine (R11, R177). -/
def roundShiftU (x : Word) (k : Nat) : Word := (x + roundBias k) >>> k

/-- `rshr_s(x, k)`: the signed rounding shift of the blender (R11, R202). -/
def roundShiftS (x : Word) (k : Nat) : Word := (x + roundBias k).sshiftRight k

/-- `clamp(v, lo, hi) = min(max(v, lo), hi)` over integers (R10). -/
def clamp (v lo hi : Int) : Int := min (max v lo) hi

end Sys2Proof.Machine
end

