-- ==== Sys2Proof/Machine/Blender.lean ====
section
/-! DEFINITION. The spatial interpolation blender, commands `FINAL_FILTER`, `FINAL_FILTER_FAST` and `BLEND` (spec
43_interpolation_blender.md R200 to R215). -/

namespace Sys2Proof.Machine

open Sys2Proof.Config

/-- `K_precise` over a grid given by its reads (R201): weight 4 on the centre and the edges, 3 on the corners. -/
def kernelPrecise (m : Int → Int → Word) (i j : Int) : Word :=
  4 * (m i j + m (i - 1) j + m (i + 1) j + m i (j - 1) + m i (j + 1)) +
  3 * (m (i - 1) (j - 1) + m (i - 1) (j + 1) + m (i + 1) (j - 1) + m (i + 1) (j + 1))

/-- `K_even` (R201): weight 6 above and below, 5 on the corners. -/
def kernelEven (m : Int → Int → Word) (i j : Int) : Word :=
  6 * (m (i - 1) j + m (i + 1) j) +
  5 * (m (i - 1) (j - 1) + m (i - 1) (j + 1) + m (i + 1) (j - 1) + m (i + 1) (j + 1))

/-- `K_odd` (R201): weight 6 on the centre, 5 left and right. -/
def kernelOdd (m : Int → Int → Word) (i j : Int) : Word :=
  6 * m i j + 5 * (m i (j - 1) + m i (j + 1))

/-- The combination of R202 with the original sample `x`. -/
def combine (P : Params) (nb : Nat) (aSum bSum x : Word) : Word :=
  roundShiftS (aSum * x + bSum) (P.sgrBits + nb - P.rstBits)

/-- The candidate of the precise interpolator at `(i, j)` (R200). -/
def State.preciseCandidate (s : State) (r : OperandRegs) (i j : Nat) : Word :=
  let site := fltAddr r i j
  combine s.cfg nb (kernelPrecise (s.at r .a site) i j) (kernelPrecise (s.at r .b site) i j) (s.srcSample r i j site)

/-- The candidate of the fast interpolator at `(i, j)` (R203): the cross kernel on even output rows, the triple on odd ones. -/
def State.fastCandidate (s : State) (r : OperandRegs) (i j : Nat) : Word :=
  let site := fltAddr r i j
  let x := s.srcSample r i j site
  if i % 2 = 0 then combine s.cfg nb0 (kernelEven (s.at r .a site) i j) (kernelEven (s.at r .b site) i j) x
  else combine s.cfg nb1 (kernelOdd (s.at r .a site) i j) (kernelOdd (s.at r .b site) i j) x

/-- A candidate written to every cell of `FLTk` (R200, R203, R206). -/
def interpolate (value : Nat → Nat → Word) (k : Slot) (r : OperandRegs) (s : State) : State :=
  (s.setGrid (fltGrid k)
    (Memory.setAll (s.grid (fltGrid k)) ((unitPositions r).map fun p => (fltAddr r p.1 p.2, value p.1 p.2)))).nextDraws

/-- The body of `FINAL_FILTER k` (R200). -/
def finalFilterBody (k : Slot) (r : OperandRegs) (s : State) : State :=
  interpolate (fun i j => s.preciseCandidate r i j) k r s

/-- The body of `FINAL_FILTER_FAST k` (R203). -/
def finalFilterFastBody (k : Slot) (r : OperandRegs) (s : State) : State :=
  interpolate (fun i j => s.fastCandidate r i j) k r s

/-- The blended value before clamping, from the sample and the candidates of the active slots (R210, R213). -/
def blendWord (P : Params) (x : Word) (c0 c1 : Option (Word × Word)) : Word :=
  let u := x <<< P.rstBits
  let correction (c : Option (Word × Word)) : Word :=
    match c with
    | some (xq, flt) => xq * (flt - u)
    | none => 0
  roundShiftS (u <<< P.prjBits + correction c0 + correction c1) (P.prjBits + P.rstBits)

/-- The clamped sample (R210, R211). -/
def clampSample (depth : Nat) (w : Word) : Half := BitVec.ofInt 16 (clamp w.toInt 0 (2 ^ depth - 1))

/-- The weight and the candidate of a slot, none for an inactive slot, whose `FLTk` is not read (R210, R212). -/
def State.candidate (s : State) (r : OperandRegs) (k : Slot) (i j : Nat) : Option (Word × Word) :=
  if slotRadius s.cfg r k = 0 then none
  else
    let xq := match k with
      | .slot0 => r.xq0
      | .slot1 => r.xq1
    some (xq, s.readGrid (fltGrid k) (fltAddr r i j) (dstAddr s.cfg r i j))

/-- The value `BLEND` stores for `(i, j)` (R210). -/
def State.blended (s : State) (r : OperandRegs) (i j : Nat) : Half :=
  clampSample r.bitDepth.toNat
    (blendWord s.cfg (s.srcSample r i j (dstAddr s.cfg r i j)) (s.candidate r .slot0 i j) (s.candidate r .slot1 i j))

/-- The body of `BLEND` (R210). -/
def blendBody (r : OperandRegs) (s : State) : State :=
  State.nextDraws { s with
    dst := Memory.setAll s.dst ((unitPositions r).map fun p => (dstAddr s.cfg r p.1 p.2, s.blended r p.1 p.2)) }

/-- `FINAL_FILTER k` (R200). -/
def execFinalFilter (k : Slot) (s : State) : Host.Outcome State Fault Refusal :=
  operation (.finalFilter k) (finalFilterBody k) s

/-- `FINAL_FILTER_FAST k` (R203). -/
def execFinalFilterFast (k : Slot) (s : State) : Host.Outcome State Fault Refusal :=
  operation (.finalFilterFast k) (finalFilterFastBody k) s

/-- `BLEND` (R210). -/
def execBlend (s : State) : Host.Outcome State Fault Refusal :=
  operation .blend blendBody s

end Sys2Proof.Machine
end

