-- ==== Sys2Proof/Machine/BoxSum.lean ====
section
/-! DEFINITION. The box-sum accessor, command `BOXSUM` (spec 41_box_sum_accessor.md R160 to R165). -/

namespace Sys2Proof.Machine

open Sys2Proof.Config

/-- `boxsum(M, i, j, r)` from the four corners of R160. -/
def State.boxSum (s : State) (r : OperandRegs) (g : Grid) (site : Nat) (i j : Int) (rad : Nat) : Word :=
  let br := s.at r g site (i + rad) (j + rad)
  let bl := s.at r g site (i + rad) (j - rad - 1)
  let tr := s.at r g site (i - rad - 1) (j + rad)
  let tl := s.at r g site (i - rad - 1) (j - rad - 1)
  br - bl - tr + tl

/-- The window of the query lies inside the bordered plane (R161). -/
def inContract (P : Params) (r : OperandRegs) (i j : Int) (rad : Nat) : Bool :=
  decide (-(P.borderV : Int) ≤ i - rad) && decide (i + rad ≤ (r.height.toNat : Int) + P.borderV - 1) &&
  decide (-(P.borderH : Int) ≤ j - rad) && decide (j + rad ≤ (r.width.toNat : Int) + P.borderH - 1)

/-- The body of R162: the box sum at `(QY, QX)`, and a draw for a query out of contract (R163). -/
def boxSumQuery (ch : Channel) (rad : Nat) (r : OperandRegs) (s : State) : State :=
  let i := r.qy.toInt
  let j := r.qx.toInt
  let value := if inContract s.cfg r i j rad then s.boxSum r (channelGrid ch) 0 i j rad else draw s.draws .boxsum
  State.nextDraws { s with result := value }

/-- `BOXSUM ch, r` (R162). -/
def execBoxsum (ch : Channel) (rad : Nat) (s : State) : Host.Outcome State Fault Refusal :=
  operation (.boxsum ch rad) (boxSumQuery ch rad) s

end Sys2Proof.Machine
end

