-- ==== Sys2Proof/Machine/Coefficient.lean ====
section
/-! DEFINITION. The filter coefficient engine, commands `CALC_AB` and `CALC_AB_FAST` (spec 42_coefficient_engine.md R170 to R187). -/

namespace Sys2Proof.Machine

open Sys2Proof.Config

/-- The window count `n = (2r+1)^2` (R171). -/
def windowCount (rad : Nat) : Nat := (2 * rad + 1) ^ 2

/-- The noise estimate `p` (R173): at 8 bits `n*sum2 - sum1^2`; at the other depths the sums are first rounded to 8-bit scale and
the difference is kept from going negative. -/
def noiseEstimate (depth n : Nat) (sum1 sum2 : Word) : Word :=
  if depth = 8 then BitVec.ofNat 32 n * sum2 - sum1 * sum1
  else
    let sh := depth - 8
    let a2 := roundShiftU sum2 (2 * sh)
    let b1 := roundShiftU sum1 sh
    let an := a2 * BitVec.ofNat 32 n
    let bb := b1 * b1
    (if bb ≤ an then an else bb) - bb

/-- The table index `z` (R174). -/
def tableIndex (P : Params) (p strength : Word) : Nat :=
  min (roundShiftU (p * strength) P.mtableBits).toNat zMax

/-- The slope `A` (R175). -/
def slope (P : Params) (z : Nat) : Word := (xbxEntry P z).setWidth 32

/-- The intercept `b` (R176), the complement-times-reciprocal product first. -/
def intercept (P : Params) (n : Nat) (a sum1 : Word) : Word :=
  let t := (BitVec.ofNat 32 P.sgr - a) * (recipEntry P n).setWidth 32
  roundShiftU (t * sum1) P.recipBits

/-- The pair `(a, b)` from the two box sums of a position (R178). -/
def coefficients (P : Params) (depth rad : Nat) (strength sum1 sum2 : Word) : Word × Word :=
  let n := windowCount rad
  let a := slope P (tableIndex P (noiseEstimate depth n sum1 sum2) strength)
  (a, intercept P n a sum1)

/-- `coef(i, j, r, s)` on the images as they stand (R172, R178). -/
def State.coef (s : State) (r : OperandRegs) (k : Slot) (i j : Int) : Word × Word :=
  let rad := slotRadius s.cfg r k
  let site := posAddr s.cfg r i j
  coefficients s.cfg r.bitDepth.toNat rad (slotStrength s.cfg r k) (s.boxSum r .d site i j rad) (s.boxSum r .c site i j rad)

/-- The pairs of some window positions written to `A` and `B` (R170, R181). No position reads a cell another one writes (R184). -/
def estimate (cells : List (Int × Int)) (k : Slot) (r : OperandRegs) (s : State) : State :=
  State.nextDraws { s with
    gridA := Memory.setAll s.gridA (cells.map fun p => (posAddr s.cfg r p.1 p.2, (s.coef r k p.1 p.2).1))
    gridB := Memory.setAll s.gridB (cells.map fun p => (posAddr s.cfg r p.1 p.2, (s.coef r k p.1 p.2).2)) }

/-- The body of `CALC_AB k`: every position of the window (R170). -/
def calcAbBody (k : Slot) (r : OperandRegs) (s : State) : State := estimate (preciseWindow r) k r s

/-- The body of `CALC_AB_FAST k`: window rows 0, 2, 4, ... (R181). -/
def calcAbFastBody (k : Slot) (r : OperandRegs) (s : State) : State := estimate (fastWindow r) k r s

/-- `CALC_AB k` (R170). -/
def execCalcAb (k : Slot) (s : State) : Host.Outcome State Fault Refusal :=
  operation (.calcAb k) (calcAbBody k) s

/-- `CALC_AB_FAST k` (R181). -/
def execCalcAbFast (k : Slot) (s : State) : Host.Outcome State Fault Refusal :=
  operation (.calcAbFast k) (calcAbFastBody k) s

end Sys2Proof.Machine
end

