-- ==== Sys2Proof/Machine/IntegralImage.lean ====
section
/-! DEFINITION. The integral image builder, command `BUILD_II` (spec 40_integral_image_builder.md R140 to R149). -/

namespace Sys2Proof.Machine

open Sys2Proof.Config

/-- A cell of both images written 0: the zero row, the zero column or the strip (R140, R145). -/
def clearImageCell (a : Nat) (s : State) : State :=
  { s with gridC := Memory.set s.gridC a 0, gridD := Memory.set s.gridD a 0 }

/-- The body of the inner loop of R140 at integral `(y, x)`: the left sums grow by the sample and its square, and each image cell
is the cell above plus the left sum. -/
def buildCell (r : OperandRegs) (y : Nat) (s : State) (x : Nat) : State :=
  let at_ := iiAddr r y x
  let above := iiAddr r (y - 1) x
  let v := s.sample r ((y - 1) * r.srcStride.toNat + (x - 1)) at_
  let left1 := s.left1 + v
  let left2 := s.left2 + v * v
  { s with
    left1 := left1
    left2 := left2
    gridD := Memory.set s.gridD at_ (s.readGrid .d above at_ + left1)
    gridC := Memory.set s.gridC at_ (s.readGrid .c above at_ + left2) }

/-- One row `y >= 1` of R140: the zero column, the active columns, the zero strip. -/
def buildRow (r : OperandRegs) (s : State) (y : Nat) : State :=
  let we := widthExt s.cfg r
  let start := { clearImageCell (iiAddr r y 0) s with left1 := 0, left2 := 0 }
  let filled := (List.range' 1 we).foldl (buildCell r y) start
  (List.range' (we + 1) s.cfg.zpad).foldl (fun t x => clearImageCell (iiAddr r y x) t) filled

/-- The zero row of R140, strip included. -/
def buildZeroRow (r : OperandRegs) (s : State) : State :=
  (List.range (widthExt s.cfg r + s.cfg.zpad + 1)).foldl (fun t x => clearImageCell (iiAddr r 0 x) t) s

/-- The whole of R140's pseudocode. -/
def buildImages (r : OperandRegs) (s : State) : State :=
  ((List.range' 1 (heightExt s.cfg r)).foldl (buildRow r) (buildZeroRow r s)).nextDraws

/-- `BUILD_II` (R140). -/
def execBuildII (s : State) : Host.Outcome State Fault Refusal :=
  operation .buildII buildImages s

end Sys2Proof.Machine
end

