-- ==== Sys2Proof/Machine/Composite.lean ====
section
/-! DEFINITION. The composite commands `RESTORE` and `APPLY` (spec 44_composite_and_control.md R230 to R232, R236). -/

namespace Sys2Proof.Machine

/-- Slot 0's pair, the fast one, run when its radius is not 0 (R230, R232). -/
def restoreSlot0 (r : OperandRegs) (s : State) : State :=
  if slotRadius s.cfg r .slot0 = 0 then s else finalFilterFastBody .slot0 r (calcAbFastBody .slot0 r s)

/-- Slot 1's pair, the precise one, run when its radius is not 0 (R230, R232). -/
def restoreSlot1 (r : OperandRegs) (s : State) : State :=
  if slotRadius s.cfg r .slot1 = 0 then s else finalFilterBody .slot1 r (calcAbBody .slot1 r s)

/-- The body of `RESTORE` (R230): the images once, then slot 0, then slot 1. -/
def restoreBody (r : OperandRegs) (s : State) : State :=
  restoreSlot1 r (restoreSlot0 r (buildImages r s))

/-- The body of `APPLY` (R231): `RESTORE`, then `BLEND`. -/
def applyBody (r : OperandRegs) (s : State) : State :=
  blendBody r (restoreBody r s)

/-- `RESTORE` (R230). -/
def execRestore (s : State) : Host.Outcome State Fault Refusal :=
  operation .restore restoreBody s

/-- `APPLY` (R231). -/
def execApply (s : State) : Host.Outcome State Fault Refusal :=
  operation .apply applyBody s

end Sys2Proof.Machine
end

