-- ==== Sys2Proof/Machine/Control.lean ====
section
/-! DEFINITION. The control commands `NOP`, `CLR` and `SRST` (spec 44_composite_and_control.md R233 to R235). -/

namespace Sys2Proof.Machine

/-- `NOP` (R233): `DONE <- 1`; in the error state its write is dropped (R264). -/
def execNop (s : State) : Host.Outcome State Fault Refusal :=
  controlCommand (fun t => if t.err then dropWrite t else { t with done := true }) s

/-- `CLR` (R234), taken in the error state too. -/
def execClr (s : State) : Host.Outcome State Fault Refusal :=
  controlCommand clearFlags s

/-- `SRST` (R235), taken in the error state too; the memories keep their content. -/
def execSrst (s : State) : Host.Outcome State Fault Refusal :=
  controlCommand resetRegisters s

end Sys2Proof.Machine
end

