-- ==== Sys2Proof/Machine/Dispatch.lean ====
section
/-! DEFINITION. The meaning of every command: what it does next, its acceptance when the block is idle and its execution when it is
pending. -/

namespace Sys2Proof.Machine

def exec (i : Instr) (s : State) : Host.Outcome State Fault Refusal :=
  match i with
  | .nop => Sys2Proof.Machine.execNop s
  | .buildII => Sys2Proof.Machine.execBuildII s
  | .boxsum ch r => Sys2Proof.Machine.execBoxsum ch r s
  | .calcAb k => Sys2Proof.Machine.execCalcAb k s
  | .calcAbFast k => Sys2Proof.Machine.execCalcAbFast k s
  | .finalFilter k => Sys2Proof.Machine.execFinalFilter k s
  | .finalFilterFast k => Sys2Proof.Machine.execFinalFilterFast k s
  | .blend => Sys2Proof.Machine.execBlend s
  | .restore => Sys2Proof.Machine.execRestore s
  | .apply => Sys2Proof.Machine.execApply s
  | .clr => Sys2Proof.Machine.execClr s
  | .srst => Sys2Proof.Machine.execSrst s

end Sys2Proof.Machine
end

