-- ==== Sys2Proof/Machine/Step.lean ====
section
/-! DEFINITION. One step of the block: what `Machine/Bus.lean` says comes next, a command acting by `exec`, and the boundary event
past. -/

namespace Sys2Proof.Machine

/-- An outcome with the boundary event past. -/
def retireOutcome : Host.Outcome State Fault Refusal → Host.Outcome State Fault Refusal
  | .next s => .next s.retire
  | .fault f => .fault f
  | .refused r => .refused r

/-- One step. -/
def step (s : State) : Host.Outcome State Fault Refusal :=
  match nextAction s with
  | .run i => retireOutcome (exec i s)
  | .advance t => .next t.retire
  | .stop f => .fault f

/-- `s` with a write of the command word to `CMD` as the very next boundary event (R33, R84): the block fetches no instruction
(R35, R88), so the command enters by that write. -/
def State.withFetchWord (s : State) (nbits w : Nat) : State :=
  { s with script := .write (busAddress Reg.cmd.offset) (BitVec.ofNat 32 (w % 2 ^ nbits)) :: s.script }

end Sys2Proof.Machine
end

