-- ==== Sys2Proof/Safety.lean ====
section
/-! DEFINITION. What a sound state is, in the terms the statements use. -/

namespace Sys2Proof.Machine

open Sys2Proof.Config

/-- A memory in canonical form whose listed addresses are below its size (R40). -/
abbrev Memory.sound {w : Nat} (m : Memory w) (cells : Nat) : Prop :=
  Memory.wf m ∧ ∀ p ∈ m, p.1 < cells

/-- All eight memories are sound. -/
abbrev State.memoriesSound (s : State) : Prop :=
  Memory.sound s.src s.cfg.srcCells ∧ Memory.sound s.dst s.cfg.dstCells ∧
  Memory.sound s.gridC s.cfg.bufCells ∧ Memory.sound s.gridD s.cfg.bufCells ∧
  Memory.sound s.gridA s.cfg.bufCells ∧ Memory.sound s.gridB s.cfg.bufCells ∧
  Memory.sound s.flt0 s.cfg.fltCells ∧ Memory.sound s.flt1 s.cfg.fltCells

/-- `ERRCODE` and `ERRCMD` are 0 while `ERR = 0`, and `ERRCODE` is one of 1..7 while `ERR = 1` (R34, R37, R250). -/
abbrev State.errorSound (s : State) : Prop :=
  if s.err then 1 ≤ s.errCode.toNat ∧ s.errCode.toNat ≤ 7 else s.errCode = 0 ∧ s.errCmd = 0

/-- What `PENDING` may hold (R51, R84, R88): the word of an operation command that passed its checks, with a snapshot that the
operand registers still equal; `DONE` and `ERR` are 0 while it is held. -/
def pendingSound (s : State) : Bool :=
  match s.pending with
  | none => true
  | some p =>
    match decode p.word with
    | none => false
    | some i =>
      isOperation i && (firstFailure i s.cfg p.regs).isNone && decide (p.regs = s.regs) && !s.done && !s.err

/-- The invariant of the block. -/
abbrev State.sound (s : State) : Prop :=
  s.cfg.wf ∧ s.memoriesSound ∧ s.errorSound ∧ pendingSound s = true

/-- The next boundary event, if it is a host access, is to a place of the block (R78). -/
def insideBlock (s : State) : Bool :=
  match s.script with
  | .read addr :: _ => decide (addr.toNat < 0x300000)
  | .write addr _ :: _ => decide (addr.toNat < 0x300000)
  | _ => true

/-- The bordered sample at padded coordinates (R141), with the draw of its own that `BUILD_II` makes if the cell was never written. -/
def planeSample (s : State) (r : OperandRegs) (py px : Nat) : Nat :=
  (s.sample r (py * r.srcStride.toNat + px) (iiAddr r (py + 1) (px + 1))).toNat

/-- The inclusive prefix sum of a plane: rows below `y`, columns below `x` (R141). -/
def prefixSum (f : Nat → Nat → Nat) (y x : Nat) : Nat :=
  ∑ py ∈ Finset.range y, ∑ px ∈ Finset.range x, f py px

/-- The sum over the window of radius `rad` around logical `(i, j)`, in padded coordinates (R13, R160). -/
def windowSum (P : Params) (f : Nat → Nat → Nat) (i j : Int) (rad : Nat) : Nat :=
  ∑ a ∈ Finset.range (2 * rad + 1), ∑ b ∈ Finset.range (2 * rad + 1),
    f ((i - rad + P.borderV).toNat + a) ((j - rad + P.borderH).toNat + b)

/-- `D` and `C` hold the integral images of a plane and of its squares (R141). -/
def holdsImages (s : State) (r : OperandRegs) (f : Nat → Nat → Nat) : Prop :=
  ∀ y x, y ≤ heightExt s.cfg r → x ≤ widthExt s.cfg r →
    Memory.get? s.gridD (iiAddr r y x) = some (BitVec.ofNat 32 (prefixSum f y x)) ∧
    Memory.get? s.gridC (iiAddr r y x) = some (BitVec.ofNat 32 (prefixSum (fun py px => f py px ^ 2) y x))

/-- Every cell of the bordered plane has been written (R283). -/
def planeWritten (s : State) (r : OperandRegs) : Prop :=
  ∀ py px, py < heightExt s.cfg r → px < widthExt s.cfg r →
    Memory.get? s.src (py * r.srcStride.toNat + px) ≠ none

/-- `s` with the command pending on the snapshot `r` (R84 step 4, R85). -/
def State.withPending (s : State) (i : Instr) (r : OperandRegs) : State :=
  { s with pending := some ⟨encode i, r⟩, done := false }

/-- The host script that issues commands one by one and lets each complete (R118, R119). -/
def commandScript (cmds : List Instr) : List HostEvent :=
  cmds.flatMap fun i => [.write (busAddress 0x0C) (encode i), .grant]

/-- The run of such a script. -/
def runCommands (cmds : List Instr) (s : State) : Host.Outcome State Fault Refusal :=
  Host.Core.run Sys2Proof.core (2 * cmds.length) { s with script := commandScript cmds }

/-- The primitives that `RESTORE` stands for on these registers (R230, R236). -/
def restorePrimitives (P : Params) (r : OperandRegs) : List Instr :=
  [.buildII] ++
  (if slotRadius P r .slot0 = 0 then [] else [.calcAbFast .slot0, .finalFilterFast .slot0]) ++
  (if slotRadius P r .slot1 = 0 then [] else [.calcAb .slot1, .finalFilter .slot1])

end Sys2Proof.Machine
end

