-- ==== Sys2Proof/Certificates/Slice0/Obligations.lean ====
section
/-! DEFINITION. The statements for the provers, from the numbered rules of spec/. -/

open Sys2Proof Sys2Proof.Config Sys2Proof.Machine

/-! Encoding -/

/-- R116, R117: a word decodes to a command exactly when the command is well formed and the word is its encoding, so every command
comes back from its encoding and no word reaches a command with a bit dropped. -/
def Obligations.DecodeAgreesWithEncode : Prop :=
  ∀ (w : Word) (i : Instr), decode w = some i ↔ i.wellFormed = true ∧ w = encode i

/-- R115: which words are illegal, and that an illegal word that reaches the checks of an idle block (R84, R264: no error state, or the
opcode field of `CLR` or `SRST`) is refused with `E_ILLEGAL_CMD` and changes nothing else. -/
def Obligations.IllegalWordRefused : Prop :=
  ∀ w : Word,
    (decode w = none ↔
      (0x0A ≤ (opcodeField w).toNat ∧ (opcodeField w).toNat ≤ 0xFD) ∨ w.extractLsb' 8 16 ≠ 0 ∨
      (if (opcodeField w).toNat = 2 then w.extractLsb' 1 3 ≠ 0
       else if 3 ≤ (opcodeField w).toNat ∧ (opcodeField w).toNat ≤ 6 then w.extractLsb' 1 7 ≠ 0
       else w.extractLsb' 0 8 ≠ 0)) ∧
    ∀ (s : State) (rest : List HostEvent), s.pending = none →
      (s.err = false ∨ opcodeField w = 0xFE ∨ opcodeField w = 0xFF) →
      s.script = .write (busAddress 0x0C) w :: rest → decode w = none →
      step s = .next { s with err := true, errCode := 1, errCmd := w, script := rest }

/-- Sanity: words of every family, written out from R111 to R113, decode to their commands, and five illegal ones to none. -/
def Obligations.TableWordsDecode : Prop :=
  decode 0x00000000 = some .nop ∧ decode 0x01000000 = some .buildII ∧
  decode 0x02000021 = some (.boxsum .squares 2) ∧ decode 0x03000001 = some (.calcAb .slot1) ∧
  decode 0x04000000 = some (.calcAbFast .slot0) ∧ decode 0x05000001 = some (.finalFilter .slot1) ∧
  decode 0x06000000 = some (.finalFilterFast .slot0) ∧ decode 0x07000000 = some .blend ∧
  decode 0x08000000 = some .restore ∧ decode 0x09000000 = some .apply ∧
  decode 0xFE000000 = some .clr ∧ decode 0xFF000000 = some .srst ∧
  decode 0x02000002 = none ∧ decode 0x06000080 = none ∧ decode 0x0A000000 = none ∧
  decode 0x08000100 = none ∧ decode 0xFE000001 = none

/-! A step runs the decoded command -/

/-- R84: a legal command word written to `CMD` while the block is idle acts by the command's own meaning, and the write is past.
The script and the two steps of a command are the model's (log entries 1 and 5). -/
def Obligations.StepRunsWrittenCommand : Prop :=
  ∀ (s : State) (w : Word) (i : Instr) (rest : List HostEvent), s.pending = none →
    s.script = .write (busAddress 0x0C) w :: rest → decode w = some i →
    step s = retireOutcome (exec i s)

/-- R85: when the host makes no access, the pending command acts by its own meaning. The script and the two steps of a command are
the model's (log entries 1 and 13). -/
def Obligations.StepRunsPendingCommand : Prop :=
  ∀ (s : State) (p : Pending) (i : Instr), s.pending = some p → decode p.word = some i → isOperation i = true →
    (s.script = [] ∨ ∃ rest, s.script = .grant :: rest) →
    step s = retireOutcome (exec i s)

/-- R84 step 4 and R85: an operation command that passes its checks is held in `PENDING` with the snapshot, `BUSY` rises and `DONE`
falls; the sequencer's next turn runs its meaning, after which `PENDING` is empty and `DONE` is 1. -/
def Obligations.CommandRunsInTwoSteps : Prop :=
  ∀ (s : State) (i : Instr) (rest : List HostEvent), isOperation i = true → i.wellFormed = true →
    s.pending = none → s.err = false → firstFailure i s.cfg s.regs = none →
    s.script = .write (busAddress 0x0C) (encode i) :: .grant :: rest →
    ∃ t u, step s = .next t ∧
      t = { s with pending := some ⟨encode i, s.regs⟩, done := false, script := .grant :: rest } ∧
      exec i t = .next u ∧ step t = .next u.retire ∧ u.pending = none ∧ u.done = true

/-- R85: a sound busy block that the host leaves alone completes its command in one step. -/
def Obligations.PendingCommandCompletes : Prop :=
  ∀ s : State, s.sound → s.busy = true → s.script = [] →
    ∃ t, step s = .next t ∧ t.busy = false ∧ t.done = true ∧ t.err = false ∧ t.regs = s.regs

/-! Checks and errors -/

/-- R251 and R253 to R259: an operation command written to an idle block is refused with the lowest code whose condition fails among
those of its row of R259, each condition spelled out as its rule gives it, and is accepted when none fails. -/
def Obligations.LowestFailingCheckReported : Prop :=
  ∀ (s : State) (i : Instr), isOperation i = true → s.pending = none → s.err = false →
    let P := s.cfg
    let r := s.regs
    let W := r.width.toNat
    let H := r.height.toNat
    let SS := r.srcStride.toNat
    let BS := r.bufStride.toNat
    let we := W + 2 * P.borderH
    let he := H + 2 * P.borderV
    let r0 := (paramSet P r).r0.toNat
    let r1 := (paramSet P r).r1.toNat
    let depthOk := r.bitDepth.toNat ∈ P.depths ∧ (8 < r.bitDepth.toNat → r.hbd = true)
    let geometryOk := (1 ≤ W ∧ W ≤ P.wMax) ∧ (1 ≤ H ∧ H ≤ P.hMax) ∧ we ≤ SS ∧ we + 1 + P.zpad ≤ BS ∧
      (he - 1) * SS + we ≤ P.srcCells ∧ (P.borderV + H - 1) * SS + P.borderH + W ≤ P.dstCells ∧
      (he + 1) * BS ≤ P.bufCells ∧ W * H ≤ P.fltCells
    let indexOk := r.paramIdx.toNat < P.nParams
    let bothZero := r0 = 0 ∧ r1 = 0
    let radiusOk := (r0 = 0 ∨ (r0 < P.borderH ∧ r0 < P.borderV)) ∧ (r1 = 0 ∨ (r1 < P.borderH ∧ r1 < P.borderV))
    let refusedWith (c : BitVec 4) := exec i s = .next { s with err := true, errCode := c, errCmd := encode i }
    let accepted := exec i s = .next { s with pending := some ⟨encode i, r⟩, done := false }
    let slot0Named := i = .calcAb .slot0 ∨ i = .calcAbFast .slot0 ∨ i = .finalFilter .slot0 ∨ i = .finalFilterFast .slot0
    let slot1Named := i = .calcAb .slot1 ∨ i = .calcAbFast .slot1 ∨ i = .finalFilter .slot1 ∨ i = .finalFilterFast .slot1
    let noParams := i = .buildII ∨ ∃ ch rad, i = .boxsum ch rad;
    (¬ depthOk → refusedWith 2) ∧
    (depthOk → ¬ geometryOk → refusedWith 3) ∧
    (depthOk → geometryOk → noParams → accepted) ∧
    (depthOk → geometryOk → ¬ noParams →
      (¬ indexOk → refusedWith 4) ∧
      (indexOk → bothZero → refusedWith 5) ∧
      (indexOk → ¬ bothZero → ¬ radiusOk → refusedWith 6) ∧
      (indexOk → ¬ bothZero → radiusOk → (slot0Named ∧ r0 = 0 ∨ slot1Named ∧ r1 = 0) → refusedWith 7) ∧
      (indexOk → ¬ bothZero → radiusOk → ¬ (slot0Named ∧ r0 = 0 ∨ slot1Named ∧ r1 = 0) → accepted))

/-- R262: when a word reaches the checks and one fails, be it the word's legality or a check of the decoded command, error entry
writes `ERR`, `ERRCODE` and `ERRCMD` in the step of the `CMD` write, and nothing else changes. -/
def Obligations.ErrorEntryChangesNothingElse : Prop :=
  ∀ (s : State) (w : Word) (e : ErrCode) (rest : List HostEvent), s.pending = none →
    (s.err = false ∨ opcodeField w = 0xFE ∨ opcodeField w = 0xFF) →
    s.script = .write (busAddress 0x0C) w :: rest →
    (decode w = none ∧ e = .illegalCmd ∨ ∃ i, decode w = some i ∧ firstFailure i s.cfg s.regs = some e) →
    step s = .next { s with err := true, errCode := e.code, errCmd := w, script := rest }

/-- R264: in the error state a `CMD` write whose opcode field is neither 0xFE nor 0xFF only sets `DROPPED`; a legal `CLR` or `SRST`
takes effect; an illegal word of those opcodes raises `E_ILLEGAL_CMD` again. -/
def Obligations.ErrorStateBlocksCommands : Prop :=
  ∀ (s : State) (w : Word) (rest : List HostEvent), s.pending = none → s.err = true →
    s.script = .write (busAddress 0x0C) w :: rest →
    (opcodeField w ≠ 0xFE ∧ opcodeField w ≠ 0xFF → step s = .next { s with dropped := true, script := rest }) ∧
    (opcodeField w = 0xFE ∨ opcodeField w = 0xFF →
      (w = 0xFE000000 ∧ step s = .next
        { s with done := false, err := false, dropped := false, errCode := 0, errCmd := 0, script := rest }) ∨
      (w = 0xFF000000 ∧ step s = .next { resetRegisters s with script := rest }) ∨
      (decode w = none ∧ step s = .next { s with err := true, errCode := 1, errCmd := w, script := rest }))

/-- R234, R266: the error state is left by `CLR`, by `SRST` or by the reset input, and in no other way. -/
def Obligations.OnlyClearLeavesErrorState : Prop :=
  ∀ (s t : State), s.err = true → step s = .next t → t.err = false →
    s.script.head? = some .rst ∨
    s.script.head? = some (.write (busAddress 0x0C) 0xFE000000) ∨
    s.script.head? = some (.write (busAddress 0x0C) 0xFF000000)

/-- R83, R263: while the block is busy, a host write to `CMD`, to any other register or to any aperture changes nothing but
`STATUS.DROPPED`. For read-only registers and ROM apertures this is the model's reading of R83 over R81 (DEDUCED, log entry 9). -/
def Obligations.BusyWriteDropped : Prop :=
  ∀ (s : State) (addr : BitVec 22) (v : Word) (rest : List HostEvent), s.pending ≠ none →
    s.script = .write addr v :: rest → (addr.toNat ≤ 18 ∨ 2 ^ 18 ≤ addr.toNat) → addr.toNat < 12 * 2 ^ 18 →
    step s = .next { s with dropped := true, script := rest }

/-! The control commands and reset -/

/-- R233: `NOP`, encoded 0x00000000, sets `DONE` on an idle block that is not in the error state, and nothing else; otherwise its
write is dropped. -/
def Obligations.NopSetsDone : Prop :=
  encode .nop = 0x00000000 ∧
  ∀ s : State,
    (s.pending = none → s.err = false → exec .nop s = .next { s with done := true }) ∧
    (s.pending ≠ none ∨ s.err = true → exec .nop s = .next { s with dropped := true })

/-- R234: `CLR` on an idle block, in the error state or not, clears the flags of `STATUS` and `ERRCMD` and keeps all else. -/
def Obligations.ClrClearsFlags : Prop :=
  encode .clr = 0xFE000000 ∧
  ∀ s : State, s.pending = none →
    exec .clr s = .next { s with done := false, err := false, dropped := false, errCode := 0, errCmd := 0 }

/-- R235: `SRST` on an idle block, in the error state or not, gives every register its reset value and keeps every memory; while the
block is busy it is dropped. -/
def Obligations.SrstResetsRegisters : Prop :=
  encode .srst = 0xFF000000 ∧
  ∀ s : State,
    (s.pending = none → ∃ t, exec .srst s = .next t ∧
      (∀ x, x ∈ [Reg.width, .height, .srcStride, .bufStride, .depth, .paramIdx, .xq0, .xq1, .qx, .qy, .irqEn, .status,
        .errCmd, .result] → readReg t x = 0) ∧
      t = { s with regs := t.regs, result := t.result, done := t.done, err := t.err, dropped := t.dropped,
                   errCode := t.errCode, errCmd := t.errCmd, doneIe := t.doneIe, errIe := t.errIe }) ∧
    (s.pending ≠ none → exec .srst s = .next { s with dropped := true })

/-- R280, R281: the reset input puts the block in the reset state whatever it was doing: the running command is abandoned, `ID` and
the `CAP` registers read their constants, every other register reads 0, and `irq` is 0. That no RAM cell then holds a value is the
model's reading of the unspecified contents of R281 (log entry 18, DEDUCED; what a read of such a cell gives: log entry 3, DESIGN
CHOICE). -/
def Obligations.ResetInputResetsBlock : Prop :=
  ∀ (s : State) (rest : List HostEvent), s.script = .rst :: rest →
    ∃ t, step s = .next t ∧ t.pending = none ∧ t.cfg = s.cfg ∧ t.irq = false ∧
      readReg t .id = 0x53475201 ∧ readReg t .cap0 = readReg s .cap0 ∧ readReg t .cap1 = readReg s .cap1 ∧
      readReg t .cap2 = readReg s .cap2 ∧
      (∀ x, x ∈ [Reg.cmd, .status, .irqEn, .errCmd, .width, .height, .srcStride, .bufStride, .depth, .paramIdx, .xq0, .xq1,
        .qx, .qy, .result] → readReg t x = 0) ∧
      (∀ m n, ramWord t m n = none)

/-- R55: the reset state: `PENDING` empty, no RAM cell with a value, registers 0, and with these registers no command that uses the
geometry passes its checks, whatever the parameter record. -/
def Obligations.ResetStateIsIdle : Prop :=
  State.reset.pending = none ∧ (∀ m n, ramWord State.reset m n = none) ∧ State.reset.irq = false ∧
  (∀ x, x ∈ [Reg.cmd, .status, .irqEn, .errCmd, .width, .height, .srcStride, .bufStride, .depth, .paramIdx, .xq0, .xq1,
    .qx, .qy, .result] → readReg State.reset x = 0) ∧
  ∀ (P : Params) (i : Instr), isOperation i = true → firstFailure i P State.reset.regs ≠ none

/-! The host's port -/

/-- R21, R29, R38: a word written to a read-write register of an idle block reads back in its implemented bits, `QX` and `QY`
sign-extended, and no other register changes. -/
def Obligations.RegisterWriteReadsBack : Prop :=
  ∀ (s : State) (x : Reg) (v : Word) (rest : List HostEvent), s.pending = none →
    x ∈ [Reg.irqEn, .width, .height, .srcStride, .bufStride, .depth, .paramIdx, .xq0, .xq1, .qx, .qy] →
    s.script = .write (busAddress x.offset) v :: .read (busAddress x.offset) :: rest →
    ∃ t u, step s = .next t ∧ step t = .next u ∧
      (∀ y : Reg, y ≠ x → readReg t y = readReg s y) ∧
      t = { s with regs := t.regs, doneIe := t.doneIe, errIe := t.errIe, script := t.script } ∧
      u = { t with rdata := u.rdata, script := rest } ∧
      u.rdata =
        match x with
        | .irqEn => v &&& 0x3
        | .depth => v &&& 0x11F
        | .paramIdx => v &&& 0xFF
        | .xq0 => v
        | .xq1 => v
        | .qx => (v.setWidth 16).signExtend 32
        | .qy => (v.setWidth 16).signExtend 32
        | _ => v &&& 0xFFFF

/-- R39, R78, R81: on an idle block a write to a read-only register, to a reserved offset, to a ROM aperture or beyond a memory's
size changes nothing. -/
def Obligations.DiscardedWriteChangesNothing : Prop :=
  ∀ (s : State) (addr : BitVec 22) (v : Word) (rest : List HostEvent), s.pending = none →
    s.script = .write addr v :: rest →
    ((∃ x ∈ [Reg.id, .cap0, .cap1, .status, .errCmd, .cap2, .result], addr = busAddress x.offset) ∨
      (19 ≤ addr.toNat ∧ addr.toNat < 2 ^ 18) ∨ (9 * 2 ^ 18 ≤ addr.toNat ∧ addr.toNat < 12 * 2 ^ 18) ∨
      ∃ m n, target s.cfg addr = .ram m n ∧ ramCells s.cfg m ≤ n) →
    step s = .next { s with script := rest }

/-- R78, R80: on an idle block a word written to a cell through its aperture reads back in the bits that fit the cell, and no other
cell of any memory and no register changes. -/
def Obligations.CellWriteReadsBack : Prop :=
  ∀ (s : State) (m : Ram) (n : Nat) (v : Word) (rest : List HostEvent), s.pending = none →
    n < ramCells s.cfg m → n < 2 ^ 18 →
    s.script = .write (busAddress (ramBase m + 4 * n)) v :: .read (busAddress (ramBase m + 4 * n)) :: rest →
    ∃ t u, step s = .next t ∧ step t = .next u ∧
      u = { t with rdata := u.rdata, script := rest } ∧
      u.rdata = (match m with
        | .plane _ => (v.setWidth 16).setWidth 32
        | .grid _ => v) ∧
      (∀ m' n', (m', n') ≠ (m, n) → ramWord t m' n' = ramWord s m' n') ∧
      (∀ x, readReg t x = readReg s x) ∧ t.pending = none ∧ t.cfg = s.cfg

/-- R81: a host read of any place of the block has no side effect: only the port's data and the model's draw counter change. The
port's data and the counter are the model's own fields (log entries 8 and 15). -/
def Obligations.ReadHasNoSideEffect : Prop :=
  ∀ (s : State) (addr : BitVec 22) (rest : List HostEvent), s.script = .read addr :: rest → addr.toNat < 12 * 2 ^ 18 →
    ∃ t, step s = .next t ∧ t = { s with rdata := t.rdata, draws := t.draws, script := rest }

/-- R83: a host read of a RAM aperture while the block is busy returns a fresh draw that fits the cell, and the command stays
pending. The form of the draw, and a draw beyond the memory's size too, are the model's (log entries 3 and 10). -/
def Obligations.BusyRamReadIsFree : Prop :=
  ∀ (s : State) (addr : BitVec 22) (rest : List HostEvent) (m : Ram) (n : Nat), s.pending ≠ none →
    s.script = .read addr :: rest → target s.cfg addr = .ram m n →
    ∃ t, step s = .next t ∧ t = { s with rdata := t.rdata, draws := s.draws + 1, script := rest } ∧
      t.rdata = (match m with
        | .plane _ => ((draw s.draws .port).setWidth 16).setWidth 32
        | .grid _ => draw s.draws .port)

/-- R21, R38, R39, R44, R78: a host read of a register returns its word, of a reserved offset 0, of a word of a read-only memory its
entry and beyond the memory's size 0, whether the block is busy or not; nothing else changes. -/
def Obligations.PortReadReturnsRegisterOrRom : Prop :=
  ∀ (s : State) (addr : BitVec 22) (rest : List HostEvent), s.script = .read addr :: rest →
    let P := s.cfg
    let returns (v : Word) := step s = .next { s with rdata := v, script := rest };
    (∀ x : Reg, addr = busAddress x.offset → returns (readReg s x)) ∧
    (19 ≤ addr.toNat → addr.toNat < 2 ^ 18 → returns 0) ∧
    (∀ n, n < 2 ^ 18 → addr.toNat = 9 * 2 ^ 18 + n →
      (∀ h : n < P.romRecip.length, returns ((P.romRecip[n]).setWidth 32)) ∧ (P.romRecip.length ≤ n → returns 0)) ∧
    (∀ n, n < 2 ^ 18 → addr.toNat = 10 * 2 ^ 18 + n →
      (∀ h : n < P.romXbx.length, returns ((P.romXbx[n]).setWidth 32)) ∧ (P.romXbx.length ≤ n → returns 0)) ∧
    ∀ e, e < 2 ^ 16 →
      (∀ h : e < P.romParams.length,
        (addr.toNat = 11 * 2 ^ 18 + 4 * e → returns (P.romParams[e]).r0) ∧
        (addr.toNat = 11 * 2 ^ 18 + 4 * e + 1 → returns (P.romParams[e]).r1) ∧
        (addr.toNat = 11 * 2 ^ 18 + 4 * e + 2 → returns (P.romParams[e]).s0) ∧
        (addr.toNat = 11 * 2 ^ 18 + 4 * e + 3 → returns (P.romParams[e]).s1)) ∧
      (P.romParams.length ≤ e → ∀ f, f < 4 → addr.toNat = 11 * 2 ^ 18 + 4 * e + f → returns 0)

/-- R78, R80, R81: a host read of a cell of an idle block returns the value last written to it, widened with zeros, and beyond the
memory's size 0; nothing else changes. -/
def Obligations.IdleRamReadReturnsCell : Prop :=
  ∀ (s : State) (m : Ram) (n : Nat) (rest : List HostEvent), s.pending = none → n < 2 ^ 18 →
    s.script = .read (busAddress (ramBase m + 4 * n)) :: rest →
    (∀ v, n < ramCells s.cfg m →
      (match m with
        | .plane .src => (Memory.get? s.src n).map (BitVec.setWidth 32)
        | .plane .dst => (Memory.get? s.dst n).map (BitVec.setWidth 32)
        | .grid .c => Memory.get? s.gridC n
        | .grid .d => Memory.get? s.gridD n
        | .grid .a => Memory.get? s.gridA n
        | .grid .b => Memory.get? s.gridB n
        | .grid .flt0 => Memory.get? s.flt0 n
        | .grid .flt1 => Memory.get? s.flt1 n) = some v →
      step s = .next { s with rdata := v, script := rest }) ∧
    (ramCells s.cfg m ≤ n → step s = .next { s with rdata := 0, script := rest })

/-- R31, R32: `ID` reads its constant, and the fields of `CAP0`, `CAP1` and `CAP2` read the parameters of a legal record, the bits
between them 0. -/
def Obligations.CapabilityWordsDescribeRecord : Prop :=
  ∀ s : State, s.cfg.wf →
    let P := s.cfg
    let c0 := readReg s .cap0
    let c1 := readReg s .cap1
    let c2 := readReg s .cap2;
    readReg s .id = 0x53475201 ∧
    (c0.extractLsb' 0 4).toNat = P.borderH ∧ (c0.extractLsb' 4 4).toNat = P.borderV ∧ (c0.extractLsb' 8 8).toNat = P.zpad ∧
    (c0.extractLsb' 16 8).toNat = P.romParams.length - 1 ∧ c0.extractLsb' 24 8 = 0 ∧
    (c1.extractLsb' 0 4).toNat = P.sgrBits ∧ (c1.extractLsb' 4 4).toNat = P.rstBits ∧
    (c1.extractLsb' 8 4).toNat = P.prjBits ∧ (c1.extractLsb' 12 4).toNat = P.recipBits ∧
    (c1.extractLsb' 16 5).toNat = P.mtableBits ∧ c1.extractLsb' 21 3 = 0 ∧
    (∀ d, 8 ≤ d → d ≤ 12 → (c1.getLsbD (24 + (d - 8)) = true ↔ d ∈ P.depths)) ∧ c1.extractLsb' 29 3 = 0 ∧
    (c2.extractLsb' 0 16).toNat = P.wMax ∧ (c2.extractLsb' 16 16).toNat = P.hMax

/-- R34, R36, R265: the fields of the `STATUS` word, and `irq` as a function of what `STATUS` and `IRQ_EN` read. -/
def Obligations.StatusAndInterruptLayout : Prop :=
  ∀ s : State,
    (readReg s .status).getLsbD 0 = s.pending.isSome ∧ (readReg s .status).getLsbD 1 = s.done ∧
    (readReg s .status).getLsbD 2 = s.err ∧ (readReg s .status).getLsbD 3 = s.dropped ∧
    (readReg s .status).extractLsb' 4 4 = 0 ∧ (readReg s .status).extractLsb' 8 4 = s.errCode ∧
    (readReg s .status).extractLsb' 12 20 = 0 ∧
    s.irq = (((readReg s .status).getLsbD 1 && (readReg s .irqEn).getLsbD 0) ||
      ((readReg s .status).getLsbD 2 && (readReg s .irqEn).getLsbD 1))

/-! The integral image builder -/

/-- R140, R141, R143: a pending `BUILD_II` completes and leaves in `D` and `C`, at every integral coordinate of the images, the
sum and the sum of squares of the bordered samples above and to the left, modulo 2^32. A never-written cell reads as a draw
(DESIGN CHOICE, log entry 3). -/
def Obligations.BuildIIGivesPrefixSums : Prop :=
  ∀ (s : State) (p : Pending), s.pending = some p → geometryLegal s.cfg p.regs = true →
    ∃ t, exec .buildII s = .next t ∧ holdsImages t p.regs (planeSample s p.regs)

/-- R140, R145, R147: a pending `BUILD_II` completes, writes 0 to the strip of both images, and changes no cell outside rows
`0 .. height_ext` and columns `0 .. width_ext + ZPAD` of `C` and `D`, no other memory and no register but `STATUS`. -/
def Obligations.BuildIIFootprint : Prop :=
  ∀ (s : State) (p : Pending), s.pending = some p → geometryLegal s.cfg p.regs = true →
    ∃ t, exec .buildII s = .next t ∧
      t = { s with gridC := t.gridC, gridD := t.gridD, left1 := t.left1, left2 := t.left2, draws := t.draws,
                   pending := none, done := true } ∧
      (∀ y x, y ≤ heightExt s.cfg p.regs → widthExt s.cfg p.regs < x → x ≤ widthExt s.cfg p.regs + s.cfg.zpad →
        Memory.get? t.gridC (iiAddr p.regs y x) = some 0 ∧ Memory.get? t.gridD (iiAddr p.regs y x) = some 0) ∧
      ∀ a, (∀ y x, y ≤ heightExt s.cfg p.regs → x ≤ widthExt s.cfg p.regs + s.cfg.zpad → iiAddr p.regs y x ≠ a) →
        Memory.get? t.gridC a = Memory.get? s.gridC a ∧ Memory.get? t.gridD a = Memory.get? s.gridD a

/-! The box-sum accessor -/

/-- R160, R162: a pending `BOXSUM` whose query is in contract completes with `RESULT = br - bl - tr + tl` of the four corner cells,
`D` for channel 0 and `C` for channel 1, and changes nothing else. -/
def Obligations.BoxSumFromFourCorners : Prop :=
  ∀ (s : State) (p : Pending) (ch : Channel) (rad : Nat) (br bl tr tl : Word), s.pending = some p →
    let i := p.regs.qy.toInt
    let j := p.regs.qx.toInt
    let m := if ch = .sums then s.gridD else s.gridC;
    -(s.cfg.borderV : Int) ≤ i - rad → i + rad ≤ (p.regs.height.toNat : Int) + s.cfg.borderV - 1 →
    -(s.cfg.borderH : Int) ≤ j - rad → j + rad ≤ (p.regs.width.toNat : Int) + s.cfg.borderH - 1 →
    Memory.get? m (posAddr s.cfg p.regs (i + rad) (j + rad)) = some br →
    Memory.get? m (posAddr s.cfg p.regs (i + rad) (j - rad - 1)) = some bl →
    Memory.get? m (posAddr s.cfg p.regs (i - rad - 1) (j + rad)) = some tr →
    Memory.get? m (posAddr s.cfg p.regs (i - rad - 1) (j - rad - 1)) = some tl →
    exec (.boxsum ch rad) s =
      .next { s with result := br - bl - tr + tl, draws := s.draws + 1, pending := none, done := true }

/-- R148, R164: on images of any plane, wrapped or not, a pending in-contract `BOXSUM` completes with the sum over the
`(2r+1) x (2r+1)` window (of the samples for channel 0, of their squares for channel 1) modulo 2^32. -/
def Obligations.BoxSumIsWindowSum : Prop :=
  ∀ (s : State) (p : Pending) (ch : Channel) (rad : Nat) (f : Nat → Nat → Nat), s.pending = some p →
    holdsImages s p.regs f → inContract s.cfg p.regs p.regs.qy.toInt p.regs.qx.toInt rad = true →
    ∃ t, exec (.boxsum ch rad) s = .next t ∧
      t.result = BitVec.ofNat 32 (windowSum s.cfg (match ch with
        | .sums => f
        | .squares => fun py px => f py px ^ 2) p.regs.qy.toInt p.regs.qx.toInt rad)

/-- R163: a pending `BOXSUM` whose window leaves the bordered plane completes, sets `DONE`, raises no error, changes no memory,
and leaves a free value in `RESULT`. The form of the free value is the model's (log entry 3). -/
def Obligations.BoxSumOutOfContractIsFree : Prop :=
  ∀ (s : State) (p : Pending) (ch : Channel) (rad : Nat), s.pending = some p →
    (p.regs.qy.toInt - rad < -(s.cfg.borderV : Int) ∨ (p.regs.height.toNat : Int) + s.cfg.borderV ≤ p.regs.qy.toInt + rad ∨
      p.regs.qx.toInt - rad < -(s.cfg.borderH : Int) ∨ (p.regs.width.toNat : Int) + s.cfg.borderH ≤ p.regs.qx.toInt + rad) →
    exec (.boxsum ch rad) s =
      .next { s with result := draw s.draws .boxsum, draws := s.draws + 1, pending := none, done := true }

/-! The coefficient engine -/

/-- R170, R178, R185: a pending `CALC_AB k` completes, stores at every window position the pair computed from that position's two
box sums, and changes no cell of `A` and `B` outside the window, no other memory and no register but `STATUS`. A never-written
cell reads as a draw (DESIGN CHOICE, log entry 3). -/
def Obligations.CalcAbWritesWindow : Prop :=
  ∀ (s : State) (p : Pending) (k : Slot), s.pending = some p → s.cfg.wf → geometryLegal s.cfg p.regs = true →
    let r := p.regs
    let rad := slotRadius s.cfg r k
    ∃ t, exec (.calcAb k) s = .next t ∧
      t = { s with gridA := t.gridA, gridB := t.gridB, draws := t.draws, pending := none, done := true } ∧
      (∀ i j : Int, -1 ≤ i → i ≤ r.height.toNat → -1 ≤ j → j ≤ r.width.toNat →
        let at_ := posAddr s.cfg r i j
        let pair := coefficients s.cfg r.bitDepth.toNat rad (slotStrength s.cfg r k)
          (s.boxSum r .d at_ i j rad) (s.boxSum r .c at_ i j rad)
        Memory.get? t.gridA at_ = some pair.1 ∧ Memory.get? t.gridB at_ = some pair.2) ∧
      ∀ a, (∀ i j : Int, -1 ≤ i → i ≤ r.height.toNat → -1 ≤ j → j ≤ r.width.toNat → posAddr s.cfg r i j ≠ a) →
        Memory.get? t.gridA a = Memory.get? s.gridA a ∧ Memory.get? t.gridB a = Memory.get? s.gridB a

/-- R181, R182, R185: a pending `CALC_AB_FAST k` completes and does the same on logical rows -1, 1, 3, ... only; the cells of the
other rows, and all else, stay. A never-written cell reads as a draw (DESIGN CHOICE, log entry 3). -/
def Obligations.CalcAbFastWritesOddRows : Prop :=
  ∀ (s : State) (p : Pending) (k : Slot), s.pending = some p → s.cfg.wf → geometryLegal s.cfg p.regs = true →
    let r := p.regs
    let rad := slotRadius s.cfg r k
    ∃ t, exec (.calcAbFast k) s = .next t ∧
      t = { s with gridA := t.gridA, gridB := t.gridB, draws := t.draws, pending := none, done := true } ∧
      (∀ i j : Int, -1 ≤ i → i ≤ r.height.toNat → i % 2 = 1 → -1 ≤ j → j ≤ r.width.toNat →
        let at_ := posAddr s.cfg r i j
        let pair := coefficients s.cfg r.bitDepth.toNat rad (slotStrength s.cfg r k)
          (s.boxSum r .d at_ i j rad) (s.boxSum r .c at_ i j rad)
        Memory.get? t.gridA at_ = some pair.1 ∧ Memory.get? t.gridB at_ = some pair.2) ∧
      ∀ a, (∀ i j : Int, -1 ≤ i → i ≤ r.height.toNat → i % 2 = 1 → -1 ≤ j → j ≤ r.width.toNat → posAddr s.cfg r i j ≠ a) →
        Memory.get? t.gridA a = Memory.get? s.gridA a ∧ Memory.get? t.gridB a = Memory.get? s.gridB a

/-- R170, R172, R181: on images of a plane, a `CALC_AB k` that passes its checks stores at every window position, and a
`CALC_AB_FAST k` at every position of rows -1, 1, 3, ..., the pair of the window sums of the samples and of their squares modulo
2^32: every one of their queries is in contract. -/
def Obligations.CalcAbFromWindowSums : Prop :=
  ∀ (s : State) (p : Pending) (k : Slot) (f : Nat → Nat → Nat), s.pending = some p → s.cfg.wf → holdsImages s p.regs f →
    let r := p.regs
    let rad := slotRadius s.cfg r k
    let stored (t : State) (i j : Int) : Prop :=
      let pair := coefficients s.cfg r.bitDepth.toNat rad (slotStrength s.cfg r k)
        (BitVec.ofNat 32 (windowSum s.cfg f i j rad))
        (BitVec.ofNat 32 (windowSum s.cfg (fun py px => f py px ^ 2) i j rad))
      Memory.get? t.gridA (posAddr s.cfg r i j) = some pair.1 ∧ Memory.get? t.gridB (posAddr s.cfg r i j) = some pair.2;
    (firstFailure (.calcAb k) s.cfg r = none →
      ∃ t, exec (.calcAb k) s = .next t ∧
        ∀ i j : Int, -1 ≤ i → i ≤ r.height.toNat → -1 ≤ j → j ≤ r.width.toNat → stored t i j) ∧
    (firstFailure (.calcAbFast k) s.cfg r = none →
      ∃ t, exec (.calcAbFast k) s = .next t ∧
        ∀ i j : Int, -1 ≤ i → i ≤ r.height.toNat → i % 2 = 1 → -1 ≤ j → j ≤ r.width.toNat → stored t i j)

/-- R161, R257: for a radius that passes its check, every query the coefficient engine makes is in contract, at the window's edges
too. -/
def Obligations.EstimatorQueriesInContract : Prop :=
  ∀ (P : Params) (r : OperandRegs) (rad : Nat) (i j : Int), P.wf → radiusLegal P rad = true →
    -1 ≤ i → i ≤ r.height.toNat → -1 ≤ j → j ≤ r.width.toNat → inContract P r i j rad = true

/-- R171, R173 to R176 at 8 bits, with legal tables: when the sums are those of a window (`sum1^2 <= n*sum2`, the variance within
R173's bound), no product wraps, and the pair is the table's slope at `z = min((p*s + 2^(M-1)) / 2^M, 255)` for
`p = n*sum2 - sum1^2`, and the intercept `((SGR - a)*one_by_n*sum1 + 2^(R-1)) / 2^R`, over the natural numbers. -/
def Obligations.CoefficientsExactAtEightBits : Prop :=
  ∀ (P : Params) (rad S1 S2 : Nat) (strength : Word), P.wf → P.romLegal → 1 ≤ rad → rad ≤ P.rMax →
    let n := (2 * rad + 1) ^ 2
    let p := n * S2 - S1 ^ 2;
    noiseBound 8 n * strength.toNat + 2 ^ (P.mtableBits - 1) < 2 ^ 32 →
    S1 ≤ n * 255 → S1 ^ 2 ≤ n * S2 → p ≤ noiseBound 8 n →
    let z := min ((p * strength.toNat + 2 ^ (P.mtableBits - 1)) / 2 ^ P.mtableBits) 255
    let a := (P.romXbx.getD z 0).toNat
    let pair := coefficients P 8 rad strength (BitVec.ofNat 32 S1) (BitVec.ofNat 32 S2);
    pair.1.toNat = a ∧
    pair.2.toNat =
      ((2 ^ P.sgrBits - a) * (P.romRecip.getD (n - 1) 0).toNat * S1 + 2 ^ (P.recipBits - 1)) / 2 ^ P.recipBits

/-- R171, R173 to R178 at every depth, for all sums and all table contents: the pair spelled out over the natural numbers, with every
`u32` of the rules a remainder modulo 2^32. Beyond 8 bits both sums are rounded to 8-bit scale and the difference is kept from going
negative by the max; the intercept is computed from the raw `sum1` at every depth. -/
def Obligations.CoefficientsFollowFormulas : Prop :=
  ∀ (P : Params) (depth rad : Nat) (strength sum1 sum2 : Word),
    let S1 := sum1.toNat
    let S2 := sum2.toNat
    let n := (2 * rad + 1) ^ 2
    let sh := depth - 8
    let a2 := (S2 + 2 ^ (2 * sh) / 2) % 2 ^ 32 / 2 ^ (2 * sh)
    let b1 := (S1 + 2 ^ sh / 2) % 2 ^ 32 / 2 ^ sh
    let an := a2 * n % 2 ^ 32
    let bb := b1 * b1 % 2 ^ 32
    let p : Nat := if depth = 8 then (((n * S2 : Int) - S1 * S1) % 2 ^ 32).toNat else max an bb - bb
    let m := p * strength.toNat % 2 ^ 32
    let z := min ((m + 2 ^ P.mtableBits / 2) % 2 ^ 32 / 2 ^ P.mtableBits) 255
    let a := (P.romXbx.getD z 0).toNat
    let oneByN := (P.romRecip.getD (n - 1) 0).toNat
    let t := ((((2 ^ P.sgrBits : Int) - a) * oneByN) % 2 ^ 32).toNat
    let q := t * S1 % 2 ^ 32
    let b := (q + 2 ^ P.recipBits / 2) % 2 ^ 32 / 2 ^ P.recipBits
    let pair := coefficients P depth rad strength sum1 sum2;
    pair.1.toNat = a ∧ pair.2.toNat = b

/-- R171, R173 to R176 at every legal depth, with legal tables, for the sums of `n` samples of that depth: the noise estimate lies
within R173's bound, is `n*sum2 - sum1^2` at 8 bits, and no sum or product wraps, so that the pair is the formulas' value over the
natural numbers. Radii up to 7, whose sums and squares fit 32 bits at every depth; `CoefficientsFollowFormulas` has the others. -/
def Obligations.CoefficientsExactAtEveryDepth : Prop :=
  ∀ (P : Params) (d : Nat) (rad strength : Word) (samples : List Nat), P.wf → P.xbxLegal → P.strengthLegal rad strength →
    d ∈ P.depths → 1 ≤ rad.toNat → rad.toNat ≤ P.rMax → rad.toNat ≤ 7 →
    let n := (2 * rad.toNat + 1) ^ 2
    samples.length = n → (∀ x ∈ samples, x ≤ 2 ^ d - 1) →
    let S1 := samples.sum
    let S2 := (samples.map (· ^ 2)).sum
    let sh := d - 8
    let a2 := (S2 + 2 ^ (2 * sh) / 2) / 2 ^ (2 * sh)
    let b1 := (S1 + 2 ^ sh / 2) / 2 ^ sh
    let p := max (n * a2) (b1 ^ 2) - b1 ^ 2
    let z := min ((p * strength.toNat + 2 ^ P.mtableBits / 2) / 2 ^ P.mtableBits) 255
    let a := (P.romXbx.getD z 0).toNat
    let pair := coefficients P d rad.toNat strength (BitVec.ofNat 32 S1) (BitVec.ofNat 32 S2);
    p ≤ noiseBound d n ∧ (d = 8 → p + S1 ^ 2 = n * S2) ∧ pair.1.toNat = a ∧
    pair.2.toNat =
      ((2 ^ P.sgrBits - a) * (P.romRecip.getD (n - 1) 0).toNat * S1 + 2 ^ P.recipBits / 2) / 2 ^ P.recipBits

/-- R183: with a legal table every slope lies in `[0, SGR]`, at every depth and for every sum. -/
def Obligations.SlopeWithinRange : Prop :=
  ∀ (P : Params) (depth rad : Nat) (strength sum1 sum2 : Word), P.wf → P.xbxLegal →
    (coefficients P depth rad strength sum1 sum2).1.toNat ≤ 2 ^ P.sgrBits

/-- R187: sums of samples shifted left by `sh` bits give, at depth `8 + sh`, the noise estimate of the unshifted sums at depth 8. -/
def Obligations.HighDepthNoiseMatches : Prop :=
  ∀ (n sh S1 S2 : Nat), 1 ≤ sh → sh ≤ 4 → n * S2 < 2 ^ 32 → S1 ^ 2 ≤ n * S2 →
    S1 * 2 ^ sh + 2 ^ sh < 2 ^ 32 → S2 * 2 ^ (2 * sh) + 2 ^ (2 * sh) < 2 ^ 32 →
    noiseEstimate (8 + sh) n (BitVec.ofNat 32 (S1 * 2 ^ sh)) (BitVec.ofNat 32 (S2 * 2 ^ (2 * sh))) =
      noiseEstimate 8 n (BitVec.ofNat 32 S1) (BitVec.ofNat 32 S2)

/-- R184: the positions of either estimator may be taken in any order: a permutation of the window of `CALC_AB` or of the rows of
`CALC_AB_FAST` leaves the same state. -/
def Obligations.EstimatorOrderIrrelevant : Prop :=
  ∀ (s : State) (r : OperandRegs) (k : Slot) (cells : List (Int × Int)), s.cfg.wf → geometryLegal s.cfg r = true →
    Memory.wf s.gridA → Memory.wf s.gridB →
    (cells.Perm (preciseWindow r) → estimate cells k r s = calcAbBody k r s) ∧
    (cells.Perm (fastWindow r) → estimate cells k r s = calcAbFastBody k r s)

/-! The interpolator -/

/-- R200 to R202, R207: a pending `FINAL_FILTER k` completes, stores at every unit position the rounded combination of the
4/3-weighted sums of `A` and `B` with the sample, and changes no other cell of `FLTk`, no other memory and no register but
`STATUS`. A never-written cell reads as a draw (DESIGN CHOICE, log entry 3). -/
def Obligations.FinalFilterWritesUnit : Prop :=
  ∀ (s : State) (p : Pending) (k : Slot), s.pending = some p →
    let r := p.regs
    ∃ t, exec (.finalFilter k) s = .next t ∧
      (t = match k with
        | .slot0 => { s with flt0 := t.flt0, draws := t.draws, pending := none, done := true }
        | .slot1 => { s with flt1 := t.flt1, draws := t.draws, pending := none, done := true }) ∧
      (∀ i j : Nat, i < r.height.toNat → j < r.width.toNat →
        let site := i * r.width.toNat + j
        let m (g : Grid) (y x : Int) : Word := s.readGrid g (posAddr s.cfg r y x) site
        let sum (g : Grid) : Word :=
          4 * (m g i j + m g (i - 1) j + m g (i + 1) j + m g i (j - 1) + m g i (j + 1)) +
          3 * (m g (i - 1) (j - 1) + m g (i - 1) (j + 1) + m g (i + 1) (j - 1) + m g (i + 1) (j + 1))
        Memory.get? (t.grid (fltGrid k)) site =
          some (roundShiftS (sum .a * s.srcSample r i j site + sum .b) (s.cfg.sgrBits + 5 - s.cfg.rstBits))) ∧
      ∀ a, r.width.toNat * r.height.toNat ≤ a →
        Memory.get? (t.grid (fltGrid k)) a = Memory.get? (s.grid (fltGrid k)) a

/-- R203, R207: a pending `FINAL_FILTER_FAST k` completes and does the same with the 6/5 cross kernel of the rows above and below
on even output rows and the 5, 6, 5 triple of the own row, one bit less shifted, on odd ones. A never-written cell reads as a draw
(DESIGN CHOICE, log entry 3). -/
def Obligations.FinalFilterFastWritesUnit : Prop :=
  ∀ (s : State) (p : Pending) (k : Slot), s.pending = some p →
    let r := p.regs
    ∃ t, exec (.finalFilterFast k) s = .next t ∧
      (t = match k with
        | .slot0 => { s with flt0 := t.flt0, draws := t.draws, pending := none, done := true }
        | .slot1 => { s with flt1 := t.flt1, draws := t.draws, pending := none, done := true }) ∧
      (∀ i j : Nat, i < r.height.toNat → j < r.width.toNat →
        let site := i * r.width.toNat + j
        let m (g : Grid) (y x : Int) : Word := s.readGrid g (posAddr s.cfg r y x) site
        let even (g : Grid) : Word :=
          6 * (m g (i - 1) j + m g (i + 1) j) +
          5 * (m g (i - 1) (j - 1) + m g (i - 1) (j + 1) + m g (i + 1) (j - 1) + m g (i + 1) (j + 1))
        let odd (g : Grid) : Word := 6 * m g i j + 5 * (m g i (j - 1) + m g i (j + 1))
        let x := s.srcSample r i j site
        (i % 2 = 0 → Memory.get? (t.grid (fltGrid k)) site =
          some (roundShiftS (even .a * x + even .b) (s.cfg.sgrBits + 5 - s.cfg.rstBits))) ∧
        (i % 2 = 1 → Memory.get? (t.grid (fltGrid k)) site =
          some (roundShiftS (odd .a * x + odd .b) (s.cfg.sgrBits + 4 - s.cfg.rstBits)))) ∧
      ∀ a, r.width.toNat * r.height.toNat ≤ a →
        Memory.get? (t.grid (fltGrid k)) a = Memory.get? (s.grid (fltGrid k)) a

/-- R182, R203, R204: after `CALC_AB_FAST k`, `FINAL_FILTER_FAST k` reads only rows of `A` and `B` that the estimator wrote:
whatever `A` and `B` held before, the candidates come out the same. A never-written cell reads as a draw (DESIGN CHOICE, log entry
3). -/
def Obligations.FastPathReadsOnlyEstimatedRows : Prop :=
  ∀ (s s' : State) (r : OperandRegs) (k : Slot) (u u' v v' : State), s.cfg.wf → geometryLegal s.cfg r = true →
    s' = { s with gridA := s'.gridA, gridB := s'.gridB } →
    exec (.calcAbFast k) (s.withPending (.calcAbFast k) r) = .next u →
    exec (.calcAbFast k) (s'.withPending (.calcAbFast k) r) = .next u' →
    exec (.finalFilterFast k) (u.withPending (.finalFilterFast k) r) = .next v →
    exec (.finalFilterFast k) (u'.withPending (.finalFilterFast k) r) = .next v' →
    v.grid (fltGrid k) = v'.grid (fltGrid k)

/-! The blender -/

/-- R210, R214: a pending `BLEND` completes, stores at every unit position of `DST` the clamped weighted blend of the sample with
the candidates of the active slots, and changes no other cell of `DST`, no other memory and no register but `STATUS`. A
never-written cell reads as a draw (DESIGN CHOICE, log entry 3). -/
def Obligations.BlendWritesUnit : Prop :=
  ∀ (s : State) (p : Pending), s.pending = some p → geometryLegal s.cfg p.regs = true →
    let r := p.regs
    let P := s.cfg
    let k := P.prjBits + P.rstBits
    ∃ t, exec .blend s = .next t ∧
      t = { s with dst := t.dst, draws := t.draws, pending := none, done := true } ∧
      (∀ i j : Nat, i < r.height.toNat → j < r.width.toNat →
        let at_ := (i + P.borderV) * r.srcStride.toNat + (j + P.borderH)
        let u := s.srcSample r i j at_ <<< P.rstBits
        let v0 := u <<< P.prjBits
        let v1 := if (paramSet P r).r0 = 0 then v0 else v0 + r.xq0 * (s.readGrid .flt0 (i * r.width.toNat + j) at_ - u)
        let v2 := if (paramSet P r).r1 = 0 then v1 else v1 + r.xq1 * (s.readGrid .flt1 (i * r.width.toNat + j) at_ - u)
        let w := ((v2 + BitVec.ofNat 32 (2 ^ k / 2)).sshiftRight k).toInt
        Memory.get? t.dst at_ = some (BitVec.ofInt 16 (min (max w 0) (2 ^ r.bitDepth.toNat - 1)))) ∧
      ∀ a, (∀ i j : Nat, i < r.height.toNat → j < r.width.toNat →
          (i + P.borderV) * r.srcStride.toNat + (j + P.borderH) ≠ a) →
        Memory.get? t.dst a = Memory.get? s.dst a

/-- R211: every sample a `BLEND` stores lies in `[0, 2^BIT_DEPTH - 1]`, whatever the candidates and the weights hold. -/
def Obligations.BlendResultInRange : Prop :=
  (∀ v lo hi : Int, lo ≤ hi → clamp v lo hi = if v < lo then lo else if hi < v then hi else v) ∧
  ∀ (s : State) (p : Pending), s.pending = some p → s.cfg.wf → geometryLegal s.cfg p.regs = true →
    depthLegal s.cfg p.regs = true →
    ∃ t, exec .blend s = .next t ∧
      ∀ i j : Nat, i < p.regs.height.toNat → j < p.regs.width.toNat →
        ∃ v, Memory.get? t.dst (dstAddr s.cfg p.regs i j) = some v ∧ v.toNat ≤ 2 ^ p.regs.bitDepth.toNat - 1

/-- R212: when `rk = 0`, two runs of `BLEND` that differ only in `FLTk` (written or not) and in `XQk` write the same `DST`. A
never-written cell reads as a draw (DESIGN CHOICE, log entry 3). -/
def Obligations.BlendIgnoresInactiveSlot : Prop :=
  ∀ (s : State) (r : OperandRegs) (xq : Word) (flt : Memory 32) (t u v : State),
    exec .blend (s.withPending .blend r) = .next t →
    ((paramSet s.cfg r).r0 = 0 →
      exec .blend (({ s with flt0 := flt } : State).withPending .blend { r with xq0 := xq }) = .next u → u.dst = t.dst) ∧
    ((paramSet s.cfg r).r1 = 0 →
      exec .blend (({ s with flt1 := flt } : State).withPending .blend { r with xq1 := xq }) = .next v → v.dst = t.dst)

/-- R210, corner case: with both weights 0 and the constants `RST_BITS = 4`, `PRJ_BITS = 7`, `BLEND` stores the source samples. A
never-written cell reads as a draw (DESIGN CHOICE, log entry 3). -/
def Obligations.ZeroWeightsReproduceSource : Prop :=
  ∀ (s : State) (p : Pending), s.pending = some p → s.cfg.wf → s.cfg.rstBits = 4 → s.cfg.prjBits = 7 →
    geometryLegal s.cfg p.regs = true → depthLegal s.cfg p.regs = true → p.regs.xq0 = 0 → p.regs.xq1 = 0 →
    ∃ t, exec .blend s = .next t ∧
      ∀ i j : Nat, i < p.regs.height.toNat → j < p.regs.width.toNat →
        Memory.get? t.dst (dstAddr s.cfg p.regs i j) =
          some ((s.srcSample p.regs i j (dstAddr s.cfg p.regs i j)).setWidth 16)

/-! The composite commands -/

/-- R230, R232: a pending `RESTORE` completes; it leaves the images of the bordered plane in `C` and `D`, touches `A` and `B` at
window positions only, `FLTk` at unit positions and only when `rk > 0`, and changes nothing else but `STATUS`. A never-written
cell reads as a draw (DESIGN CHOICE, log entry 3). -/
def Obligations.RestoreWrites : Prop :=
  ∀ (s : State) (p : Pending), s.pending = some p → s.cfg.wf → firstFailure .restore s.cfg p.regs = none →
    let r := p.regs
    ∃ t, exec .restore s = .next t ∧
      t = { s with gridC := t.gridC, gridD := t.gridD, gridA := t.gridA, gridB := t.gridB, flt0 := t.flt0, flt1 := t.flt1,
                   left1 := t.left1, left2 := t.left2, draws := t.draws, pending := none, done := true } ∧
      holdsImages t r (planeSample s r) ∧
      ((paramSet s.cfg r).r0 = 0 → t.flt0 = s.flt0) ∧ ((paramSet s.cfg r).r1 = 0 → t.flt1 = s.flt1) ∧
      (∀ a, (∀ y x, y ≤ heightExt s.cfg r → x ≤ widthExt s.cfg r + s.cfg.zpad → iiAddr r y x ≠ a) →
        Memory.get? t.gridC a = Memory.get? s.gridC a ∧ Memory.get? t.gridD a = Memory.get? s.gridD a) ∧
      (∀ a, (∀ i j : Int, -1 ≤ i → i ≤ r.height.toNat → -1 ≤ j → j ≤ r.width.toNat → posAddr s.cfg r i j ≠ a) →
        Memory.get? t.gridA a = Memory.get? s.gridA a ∧ Memory.get? t.gridB a = Memory.get? s.gridB a) ∧
      ∀ a, r.width.toNat * r.height.toNat ≤ a →
        Memory.get? t.flt0 a = Memory.get? s.flt0 a ∧ Memory.get? t.flt1 a = Memory.get? s.flt1 a

/-- R231: a pending `APPLY` completes as `RESTORE` followed by `BLEND`: it writes what `RESTORE` writes and the unit cells of
`DST`, and leaves what the two commands run one after the other leave. A never-written cell reads as a draw (DESIGN CHOICE, log
entry 3). -/
def Obligations.ApplyIsRestoreThenBlend : Prop :=
  ∀ (s : State) (r : OperandRegs), s.cfg.wf → firstFailure .apply s.cfg r = none →
    ∃ t u, exec .restore (s.withPending .restore r) = .next t ∧
      exec .blend (t.withPending .blend r) = .next u ∧
      exec .apply (s.withPending .apply r) = .next u ∧
      u = { t with dst := u.dst, draws := u.draws } ∧
      ∀ a, (∀ i j : Nat, i < r.height.toNat → j < r.width.toNat → dstAddr s.cfg r i j ≠ a) →
        Memory.get? u.dst a = Memory.get? s.dst a

/-- R236: from the same idle state, `APPLY` ends in the state in which the host script of its primitives ends, and `RESTORE` in
that of the script without `BLEND`; all through the port, each command accepted and completed. A never-written cell reads as a
draw (DESIGN CHOICE, log entry 3). -/
def Obligations.CompositesEqualPrimitives : Prop :=
  ∀ s : State, s.pending = none → s.err = false →
    (firstFailure .restore s.cfg s.regs = none →
      ∃ t, runCommands [.restore] s = .next t ∧ runCommands (restorePrimitives s.cfg s.regs) s = .next t) ∧
    (firstFailure .apply s.cfg s.regs = none →
      ∃ t, runCommands [.apply] s = .next t ∧ runCommands (restorePrimitives s.cfg s.regs ++ [.blend]) s = .next t)

/-- R238, R284: a `RESTORE` or `APPLY` over a bordered plane that the host has written depends on no other RAM content and on no draw:
two blocks that agree on the parameter record, the snapshot and `SRC` end with the same images and the same candidates of the active
slots, and after `APPLY` with the same unit cells of `DST`. -/
def Obligations.CompositeDependsOnSourceOnly : Prop :=
  ∀ (s s' : State) (r : OperandRegs) (t t' : State), s.cfg.wf → planeWritten s r → s'.cfg = s.cfg → s'.src = s.src →
    let agree : Prop :=
      (∀ y x, y ≤ heightExt s.cfg r → x ≤ widthExt s.cfg r + s.cfg.zpad →
        Memory.get? t.gridC (iiAddr r y x) = Memory.get? t'.gridC (iiAddr r y x) ∧
        Memory.get? t.gridD (iiAddr r y x) = Memory.get? t'.gridD (iiAddr r y x)) ∧
      ∀ i j : Nat, i < r.height.toNat → j < r.width.toNat →
        ((paramSet s.cfg r).r0 ≠ 0 → Memory.get? t.flt0 (fltAddr r i j) = Memory.get? t'.flt0 (fltAddr r i j)) ∧
        ((paramSet s.cfg r).r1 ≠ 0 → Memory.get? t.flt1 (fltAddr r i j) = Memory.get? t'.flt1 (fltAddr r i j));
    (firstFailure .restore s.cfg r = none →
      exec .restore (s.withPending .restore r) = .next t → exec .restore (s'.withPending .restore r) = .next t' → agree) ∧
    (firstFailure .apply s.cfg r = none →
      exec .apply (s.withPending .apply r) = .next t → exec .apply (s'.withPending .apply r) = .next t' →
      agree ∧ ∀ i j : Nat, i < r.height.toNat → j < r.width.toNat →
        Memory.get? t.dst (dstAddr s.cfg r i j) = Memory.get? t'.dst (dstAddr s.cfg r i j))

/-! Invariants -/

/-- The reset state meets the invariant. It rests on the record `TV` that the reset state carries (PRESUMED, log entry 2). -/
def Obligations.ResetIsSound : Prop := State.reset.sound

/-- Every step keeps the invariant: a legal parameter record, canonical memories within their sizes, `ERRCODE` and `ERRCMD` as
`ERR` says, and in `PENDING` only a command that passed its checks on registers that have not changed since. The legality of a
record is the model's reading (log entry 16). -/
def Obligations.StepKeepsSound : Prop :=
  ∀ s t : State, s.sound → step s = .next t → t.sound

/-- A sound block whose next host access is to a place of the block never stops: no command faults or is refused. The model's two
faults are its own (log entries 11 and 12). -/
def Obligations.SoundStepNeverStops : Prop :=
  ∀ s : State, s.sound → insideBlock s = true → ∃ t, step s = .next t

/-- R83, R88: while the block is busy no host access alters the pending command, a register but `STATUS`, or a memory. -/
def Obligations.BusyBlockIsIsolated : Prop :=
  ∀ (s t : State) (e : HostEvent) (rest : List HostEvent), s.pending ≠ none → s.script = e :: rest →
    e ≠ .grant → e ≠ .rst → step s = .next t →
    t = { s with dropped := t.dropped, rdata := t.rdata, draws := t.draws, script := rest }

/-- R44: no step changes the read-only memories or any other part of the parameter record. -/
def Obligations.ParameterRecordFixed : Prop :=
  ∀ s t : State, step s = .next t → t.cfg = s.cfg

/-- R254: under the geometry check every address the commands form lies inside its memory: the samples of the bordered plane, the image
cells with the strip, the window's pairs, the candidates and the destination cells. -/
def Obligations.FormedAddressesInside : Prop :=
  ∀ (P : Params) (r : OperandRegs), P.wf → geometryLegal P r = true →
    (∀ py px, py < heightExt P r → px < widthExt P r → py * r.srcStride.toNat + px < P.srcCells) ∧
    (∀ i j : Nat, i < r.height.toNat → j < r.width.toNat →
      srcAddr P r i j < P.srcCells ∧ dstAddr P r i j < P.dstCells ∧ fltAddr r i j < P.fltCells) ∧
    (∀ y x, y ≤ heightExt P r → x ≤ widthExt P r + P.zpad → iiAddr r y x < P.bufCells) ∧
    ∀ i j : Int, -1 ≤ i → i ≤ r.height.toNat → -1 ≤ j → j ≤ r.width.toNat → posAddr P r i j < P.bufCells
end

