-- ==== Sys2Proof/Laws/Memory.lean ====
section
/-! SUPPORT. The laws of a memory: read after write, other cells unchanged, the canonical form kept, and what a list of writes does. -/

namespace Sys2Proof.Machine

open Sys2Proof.Config

variable {w : Nat}

@[simp] theorem get?_nil (a : Nat) : Memory.get? ([] : Memory w) a = none := rfl

theorem get?_cons (k : Nat) (v : BitVec w) (m : Memory w) (a : Nat) :
    Memory.get? ((k, v) :: m) a = if k = a then some v else Memory.get? m a := rfl

@[simp] theorem get?_set_self (m : Memory w) (a : Nat) (v : BitVec w) : Memory.get? (Memory.set m a v) a = some v := by
  induction m with
  | nil => simp [Memory.set, Memory.get?]
  | cons p m ih =>
    obtain ⟨k, u⟩ := p
    simp only [Memory.set]
    split
    · simp [Memory.get?]
    · split
      · simp [Memory.get?]
      · rename_i hne
        simp [Memory.get?, Ne.symm hne, ih]

theorem get?_set_of_ne (m : Memory w) {a b : Nat} (v : BitVec w) (h : b ≠ a) :
    Memory.get? (Memory.set m a v) b = Memory.get? m b := by
  induction m with
  | nil => simp [Memory.set, Memory.get?, Ne.symm h]
  | cons p m ih =>
    obtain ⟨k, u⟩ := p
    simp only [Memory.set]
    split
    · simp [Memory.get?, Ne.symm h]
    · split
      · rename_i heq
        subst heq
        simp [Memory.get?, Ne.symm h]
      · simp [Memory.get?, ih]

/-- All a write does to reads. -/
theorem get?_set (m : Memory w) (a b : Nat) (v : BitVec w) :
    Memory.get? (Memory.set m a v) b = if b = a then some v else Memory.get? m b := by
  by_cases h : b = a
  · subst h
    simp
  · simp [h, get?_set_of_ne m v h]

theorem mem_set {m : Memory w} {a : Nat} {v : BitVec w} {p : Nat × BitVec w} (h : p ∈ Memory.set m a v) :
    p = (a, v) ∨ p ∈ m := by
  induction m with
  | nil => simpa [Memory.set] using h
  | cons q m ih =>
    obtain ⟨k, u⟩ := q
    simp only [Memory.set] at h
    split at h
    · simpa using h
    · split at h
      · rcases List.mem_cons.1 h with h | h
        · exact .inl h
        · exact .inr (List.mem_cons_of_mem _ h)
      · rcases List.mem_cons.1 h with h | h
        · exact .inr (h ▸ List.mem_cons_self)
        · rcases ih h with h | h
          · exact .inl h
          · exact .inr (List.mem_cons_of_mem _ h)

/-- A write keeps the canonical form. -/
theorem wf_set {m : Memory w} (h : Memory.wf m) (a : Nat) (v : BitVec w) : Memory.wf (Memory.set m a v) := by
  induction m with
  | nil => simp [Memory.set, Memory.wf]
  | cons q m ih =>
    obtain ⟨k, u⟩ := q
    obtain ⟨h1, h2⟩ := List.pairwise_cons.1 h
    simp only [Memory.set]
    split
    · rename_i hlt
      refine List.pairwise_cons.2 ⟨fun p hp => ?_, h⟩
      rcases List.mem_cons.1 hp with hp | hp
      · exact hp ▸ hlt
      · exact lt_trans hlt (h1 p hp)
    · split
      · rename_i heq
        subst heq
        exact List.pairwise_cons.2 ⟨h1, h2⟩
      · rename_i hlt hne
        refine List.pairwise_cons.2 ⟨fun p hp => ?_, ih h2⟩
        rcases mem_set hp with hp | hp
        · subst hp
          simp only
          omega
        · exact h1 p hp

/-- A write below the memory's size keeps it sound. -/
theorem sound_set {m : Memory w} {n : Nat} (h : Memory.sound m n) {a : Nat} (ha : a < n) (v : BitVec w) :
    Memory.sound (Memory.set m a v) n := by
  refine ⟨wf_set h.1 a v, fun p hp => ?_⟩
  rcases mem_set hp with hp | hp
  · exact hp ▸ ha
  · exact h.2 p hp

@[simp] theorem setAll_nil (m : Memory w) : Memory.setAll m [] = m := rfl

@[simp] theorem setAll_cons (m : Memory w) (p : Nat × BitVec w) (ps : List (Nat × BitVec w)) :
    Memory.setAll m (p :: ps) = Memory.setAll (Memory.set m p.1 p.2) ps := rfl

theorem setAll_append (m : Memory w) (ps qs : List (Nat × BitVec w)) :
    Memory.setAll m (ps ++ qs) = Memory.setAll (Memory.setAll m ps) qs := by
  simp [Memory.setAll, List.foldl_append]

/-- A list of writes below the memory's size keeps it sound. -/
theorem sound_setAll {m : Memory w} {n : Nat} (h : Memory.sound m n) {ps : List (Nat × BitVec w)}
    (hp : ∀ p ∈ ps, p.1 < n) : Memory.sound (Memory.setAll m ps) n := by
  induction ps generalizing m with
  | nil => exact h
  | cons p ps ih =>
    exact ih (sound_set h (hp p List.mem_cons_self) p.2) fun q hq => hp q (List.mem_cons_of_mem _ hq)

/-- A cell that no write of the list names is unchanged. -/
theorem get?_setAll_of_not_mem (m : Memory w) {ps : List (Nat × BitVec w)} {a : Nat} (h : ∀ p ∈ ps, p.1 ≠ a) :
    Memory.get? (Memory.setAll m ps) a = Memory.get? m a := by
  induction ps generalizing m with
  | nil => rfl
  | cons p ps ih =>
    rw [setAll_cons, ih _ fun q hq => h q (List.mem_cons_of_mem _ hq),
      get?_set_of_ne m p.2 (Ne.symm (h p List.mem_cons_self))]

/-- A cell that the list writes, always with the same value, holds that value. -/
theorem get?_setAll_of_mem (m : Memory w) {ps : List (Nat × BitVec w)} {a : Nat} {v : BitVec w}
    (hm : (a, v) ∈ ps) (hv : ∀ p ∈ ps, p.1 = a → p.2 = v) : Memory.get? (Memory.setAll m ps) a = some v := by
  induction ps generalizing m with
  | nil => simp at hm
  | cons p ps ih =>
    rw [setAll_cons]
    by_cases hin : (a, v) ∈ ps
    · exact ih _ hin fun q hq => hv q (List.mem_cons_of_mem _ hq)
    · have hp : p = (a, v) := by
        rcases List.mem_cons.1 hm with h | h
        · exact h.symm
        · exact absurd h hin
      subst hp
      rw [get?_setAll_of_not_mem]
      · simp
      · intro q hq hqa
        exact hin (by
          have := hv q (List.mem_cons_of_mem _ hq) hqa
          rw [← hqa, ← this]
          exact hq)

/-- All a list of writes at the addresses of distinct places does to reads. -/
theorem get?_setAll_map {α : Type} (m : Memory w) (cells : List α) (addr : α → Nat) (value : α → BitVec w)
    (hinj : ∀ x ∈ cells, ∀ y ∈ cells, addr x = addr y → x = y) :
    (∀ x ∈ cells, Memory.get? (Memory.setAll m (cells.map fun p => (addr p, value p))) (addr x) = some (value x)) ∧
    ∀ a, (∀ x ∈ cells, addr x ≠ a) →
      Memory.get? (Memory.setAll m (cells.map fun p => (addr p, value p))) a = Memory.get? m a := by
  constructor
  · intro x hx
    refine get?_setAll_of_mem m (List.mem_map.2 ⟨x, hx, rfl⟩) ?_
    intro p hp hpa
    obtain ⟨y, hy, rfl⟩ := List.mem_map.1 hp
    rw [hinj y hy x hx hpa]
  · intro a ha
    refine get?_setAll_of_not_mem m ?_
    intro p hp
    obtain ⟨y, hy, rfl⟩ := List.mem_map.1 hp
    exact ha y hy

/-- Two canonical memories with the same reads are equal. -/
theorem memory_ext {m n : Memory w} (hm : Memory.wf m) (hn : Memory.wf n)
    (h : ∀ a, Memory.get? m a = Memory.get? n a) : m = n := by
  have key : ∀ (l : Memory w) (k : Nat), (∀ q ∈ l, k < q.1) → Memory.get? l k = none := by
    intro l k hl
    induction l with
    | nil => rfl
    | cons q l ih =>
      obtain ⟨k', u⟩ := q
      have := hl (k', u) List.mem_cons_self
      simp only at this
      rw [get?_cons, if_neg (by omega)]
      exact ih fun q hq => hl q (List.mem_cons_of_mem _ hq)
  induction m generalizing n with
  | nil =>
    cases n with
    | nil => rfl
    | cons q n =>
      have := h q.1
      simp [Memory.get?] at this
  | cons p m ih =>
    obtain ⟨k, v⟩ := p
    obtain ⟨hm1, hm2⟩ := List.pairwise_cons.1 hm
    cases n with
    | nil =>
      have := h k
      simp [Memory.get?] at this
    | cons q n =>
      obtain ⟨k', v'⟩ := q
      obtain ⟨hn1, hn2⟩ := List.pairwise_cons.1 hn
      have hk : k = k' := by
        rcases Nat.lt_trichotomy k k' with hlt | heq | hlt
        · have := h k
          rw [get?_cons, if_pos rfl, get?_cons, if_neg (by omega),
            key n k fun q hq => lt_trans hlt (hn1 q hq)] at this
          cases this
        · exact heq
        · have := h k'
          rw [get?_cons, if_neg (by omega), get?_cons, if_pos rfl,
            key m k' fun q hq => lt_trans hlt (hm1 q hq)] at this
          cases this
      subst hk
      have hv : v = v' := by
        have := h k
        simpa [Memory.get?] using this
      subst hv
      have : m = n := by
        refine ih hm2 hn2 fun a => ?_
        by_cases ha : a = k
        · subst ha
          rw [key m a fun q hq => hm1 q hq, key n a fun q hq => hn1 q hq]
        · have := h a
          rwa [get?_cons, if_neg (Ne.symm ha), get?_cons, if_neg (Ne.symm ha)] at this
      rw [this]

end Sys2Proof.Machine
end

