-- ==== Sys2Proof/Laws/Operands.lean ====
section
/-! SUPPORT. What the position lists hold, and that distinct positions of a legal configuration have distinct addresses. -/

namespace Sys2Proof.Machine

open Sys2Proof.Config

@[simp] theorem mem_positions {α : Type} {rows cols : List α} {p : α × α} :
    p ∈ positions rows cols ↔ p.1 ∈ rows ∧ p.2 ∈ cols := by
  obtain ⟨i, j⟩ := p
  simp only [positions, List.mem_flatMap, List.mem_map, Prod.mk.injEq]
  constructor
  · rintro ⟨a, ha, b, hb, rfl, rfl⟩
    exact ⟨ha, hb⟩
  · rintro ⟨hi, hj⟩
    exact ⟨i, hi, j, hj, rfl, rfl⟩

@[simp] theorem mem_windowRange {n : Nat} {i : Int} : i ∈ windowRange n ↔ -1 ≤ i ∧ i ≤ n := by
  simp only [windowRange, List.mem_map, List.mem_range]
  constructor
  · rintro ⟨a, ha, rfl⟩
    omega
  · rintro ⟨h1, h2⟩
    exact ⟨(i + 1).toNat, by omega, by omega⟩

@[simp] theorem mem_fastRange {n : Nat} {i : Int} : i ∈ fastRange n ↔ -1 ≤ i ∧ i ≤ n ∧ i % 2 = 1 := by
  simp only [fastRange, List.mem_map, List.mem_range]
  constructor
  · rintro ⟨a, ha, rfl⟩
    omega
  · rintro ⟨h1, h2, h3⟩
    exact ⟨((i + 1) / 2).toNat, by omega, by omega⟩

theorem mem_preciseWindow {r : OperandRegs} {p : Int × Int} :
    p ∈ preciseWindow r ↔ (-1 ≤ p.1 ∧ p.1 ≤ r.height.toNat) ∧ -1 ≤ p.2 ∧ p.2 ≤ r.width.toNat := by
  simp [preciseWindow]

theorem mem_fastWindow {r : OperandRegs} {p : Int × Int} :
    p ∈ fastWindow r ↔ (-1 ≤ p.1 ∧ p.1 ≤ r.height.toNat ∧ p.1 % 2 = 1) ∧ -1 ≤ p.2 ∧ p.2 ≤ r.width.toNat := by
  simp [fastWindow]

theorem mem_unitPositions {r : OperandRegs} {p : Nat × Nat} :
    p ∈ unitPositions r ↔ p.1 < r.height.toNat ∧ p.2 < r.width.toNat := by
  simp [unitPositions]

/-- Two places of a row-major layout with the same address are the same place, when their columns are below the stride. -/
theorem rowMajor_inj {stride y x y' x' : Nat} (hx : x < stride) (hx' : x' < stride)
    (h : y * stride + x = y' * stride + x') : y = y' ∧ x = x' := by
  have hy : y = y' := by
    have h1 : (y * stride + x) / stride = y := by
      rw [Nat.add_comm, Nat.add_mul_div_right _ _ (by omega), Nat.div_eq_of_lt hx, Nat.zero_add]
    have h2 : (y' * stride + x') / stride = y' := by
      rw [Nat.add_comm, Nat.add_mul_div_right _ _ (by omega), Nat.div_eq_of_lt hx', Nat.zero_add]
    rw [← h1, ← h2, h]
  subst hy
  omega

/-- A place of a row-major layout lies below the end of its row. -/
theorem rowMajor_lt {stride y x rows : Nat} (hy : y < rows) (hx : x < stride) : y * stride + x < rows * stride := by
  have : (y + 1) * stride ≤ rows * stride := Nat.mul_le_mul_right _ hy
  rw [Nat.add_mul] at this
  omega

/-- `pos_addr` over the window is the image address one row and one column further (R74). -/
theorem posAddr_eq {P : Params} {r : OperandRegs} {i j : Int} (hi : 0 ≤ i + P.borderV + 1) (hj : 0 ≤ j + P.borderH + 1) :
    posAddr P r i j = iiAddr r (i + P.borderV + 1).toNat (j + P.borderH + 1).toNat := by
  obtain ⟨a, ha⟩ := Int.eq_ofNat_of_zero_le hi
  obtain ⟨b, hb⟩ := Int.eq_ofNat_of_zero_le hj
  simp only [posAddr, iiAddr, ha, hb, Int.toNat_natCast]
  omega

/-- `dst_addr` of a unit position as a row-major place (R72). -/
theorem dstAddr_eq (P : Params) (r : OperandRegs) (i j : Nat) :
    dstAddr P r i j = (i + P.borderV) * r.srcStride.toNat + (j + P.borderH) := by
  have : ((i : Int) + P.borderV) * r.srcStride.toNat + (j + P.borderH) =
      (((i + P.borderV) * r.srcStride.toNat + (j + P.borderH) : Nat) : Int) := by push_cast; ring
  rw [dstAddr, this, Int.toNat_natCast]

/-- `src_addr` of a unit position as a row-major place (R71). -/
theorem srcAddr_eq (P : Params) (r : OperandRegs) (i j : Nat) :
    srcAddr P r i j = (i + P.borderV) * r.srcStride.toNat + (j + P.borderH) := by
  have : ((i : Int) + P.borderV) * r.srcStride.toNat + (j + P.borderH) =
      (((i + P.borderV) * r.srcStride.toNat + (j + P.borderH) : Nat) : Int) := by push_cast; ring
  rw [srcAddr, this, Int.toNat_natCast]

/-- What the geometry check of R254 says, condition by condition. -/
theorem geometryLegal_iff {P : Params} {r : OperandRegs} :
    geometryLegal P r = true ↔
      (1 ≤ r.width.toNat ∧ r.width.toNat ≤ P.wMax) ∧ (1 ≤ r.height.toNat ∧ r.height.toNat ≤ P.hMax) ∧
      widthExt P r ≤ r.srcStride.toNat ∧ widthExt P r + 1 + P.zpad ≤ r.bufStride.toNat ∧
      (heightExt P r - 1) * r.srcStride.toNat + widthExt P r ≤ P.srcCells ∧
      (P.borderV + r.height.toNat - 1) * r.srcStride.toNat + P.borderH + r.width.toNat ≤ P.dstCells ∧
      (heightExt P r + 1) * r.bufStride.toNat ≤ P.bufCells ∧ r.width.toNat * r.height.toNat ≤ P.fltCells := by
  simp only [geometryLegal, Bool.and_eq_true, decide_eq_true_eq]
  tauto

/-- Every operation command that passes its checks passed the depth and the geometry check (R259). -/
theorem legal_of_accepted {i : Instr} {P : Params} {r : OperandRegs} (hi : isOperation i = true)
    (h : firstFailure i P r = none) : depthLegal P r = true ∧ geometryLegal P r = true := by
  have hall : ∀ e ∈ checksOf i, checkFails i P r e = false := by
    simpa [firstFailure] using h
  have h2 := hall .bitDepth
  have h3 := hall .geometry
  cases i <;> simp_all [isOperation, checksOf, geometryChecks, paramChecks, slotChecks, checkFails]

/-- A window position as an image place (R74, R179). -/
theorem posAddr_window {P : Params} {r : OperandRegs} (hP : P.wf) {i j : Int}
    (hi : -1 ≤ i ∧ i ≤ r.height.toNat) (hj : -1 ≤ j ∧ j ≤ r.width.toNat) :
    posAddr P r i j = iiAddr r (i + P.borderV + 1).toNat (j + P.borderH + 1).toNat ∧
      (i + P.borderV + 1).toNat ≤ heightExt P r ∧ (j + P.borderH + 1).toNat ≤ widthExt P r := by
  obtain ⟨⟨hb1, -⟩, ⟨hb2, -⟩, -⟩ := hP
  refine ⟨posAddr_eq (by omega) (by omega), ?_, ?_⟩
  · unfold heightExt
    omega
  · unfold widthExt
    omega

/-- Distinct window positions of a legal configuration have distinct addresses. -/
theorem posAddr_inj {P : Params} {r : OperandRegs} (hP : P.wf) (h : geometryLegal P r = true) {p q : Int × Int}
    (hp : p ∈ preciseWindow r) (hq : q ∈ preciseWindow r) (he : posAddr P r p.1 p.2 = posAddr P r q.1 q.2) : p = q := by
  rw [mem_preciseWindow] at hp hq
  obtain ⟨e1, a1, b1⟩ := posAddr_window hP hp.1 hp.2
  obtain ⟨e2, a2, b2⟩ := posAddr_window hP hq.1 hq.2
  obtain ⟨-, -, -, hbs, -⟩ := geometryLegal_iff.1 h
  obtain ⟨⟨hb1, -⟩, ⟨hb2, -⟩, -⟩ := hP
  rw [e1, e2] at he
  obtain ⟨hy, hx⟩ := rowMajor_inj (by omega) (by omega) he
  obtain ⟨p1, p2⟩ := p
  obtain ⟨q1, q2⟩ := q
  simp only at *
  rw [Prod.mk.injEq]
  omega

/-- The fast window is part of the precise one (R181). -/
theorem fastWindow_subset {r : OperandRegs} {p : Int × Int} (hp : p ∈ fastWindow r) : p ∈ preciseWindow r := by
  rw [mem_fastWindow] at hp
  rw [mem_preciseWindow]
  omega

theorem posAddr_lt {P : Params} {r : OperandRegs} (hP : P.wf) (h : geometryLegal P r = true) {p : Int × Int}
    (hp : p ∈ preciseWindow r) : posAddr P r p.1 p.2 < P.bufCells := by
  rw [mem_preciseWindow] at hp
  obtain ⟨e1, a1, b1⟩ := posAddr_window hP hp.1 hp.2
  obtain ⟨-, -, -, hbs, -, -, hbuf, -⟩ := geometryLegal_iff.1 h
  rw [e1]
  exact lt_of_lt_of_le (rowMajor_lt (by omega) (by omega)) hbuf

theorem fltAddr_inj {r : OperandRegs} {p q : Nat × Nat} (hp : p ∈ unitPositions r) (hq : q ∈ unitPositions r)
    (he : fltAddr r p.1 p.2 = fltAddr r q.1 q.2) : p = q := by
  rw [mem_unitPositions] at hp hq
  obtain ⟨hy, hx⟩ := rowMajor_inj hp.2 hq.2 he
  exact Prod.ext hy hx

theorem fltAddr_lt {P : Params} {r : OperandRegs} (h : geometryLegal P r = true) {p : Nat × Nat}
    (hp : p ∈ unitPositions r) : fltAddr r p.1 p.2 < P.fltCells := by
  rw [mem_unitPositions] at hp
  obtain ⟨-, -, -, -, -, -, -, hflt⟩ := geometryLegal_iff.1 h
  rw [Nat.mul_comm] at hflt
  exact lt_of_lt_of_le (rowMajor_lt hp.1 hp.2) hflt

theorem dstAddr_inj {P : Params} {r : OperandRegs} (h : geometryLegal P r = true) {p q : Nat × Nat}
    (hp : p ∈ unitPositions r) (hq : q ∈ unitPositions r) (he : dstAddr P r p.1 p.2 = dstAddr P r q.1 q.2) : p = q := by
  rw [mem_unitPositions] at hp hq
  obtain ⟨-, -, hss, -⟩ := geometryLegal_iff.1 h
  unfold widthExt at hss
  rw [dstAddr_eq, dstAddr_eq] at he
  obtain ⟨hy, hx⟩ := rowMajor_inj (by omega) (by omega) he
  exact Prod.ext (by omega) (by omega)

theorem dstAddr_lt {P : Params} {r : OperandRegs} (h : geometryLegal P r = true) {p : Nat × Nat}
    (hp : p ∈ unitPositions r) : dstAddr P r p.1 p.2 < P.dstCells := by
  rw [mem_unitPositions] at hp
  obtain ⟨-, -, -, -, -, hdst, -⟩ := geometryLegal_iff.1 h
  rw [dstAddr_eq]
  have : (p.1 + P.borderV) * r.srcStride.toNat ≤ (P.borderV + r.height.toNat - 1) * r.srcStride.toNat :=
    Nat.mul_le_mul_right _ (by omega)
  omega

end Sys2Proof.Machine
end

