-- ==== Sys2Proof/Laws/State.lean ====
section
/-! SUPPORT. One lemma per field per state update: what each named update leaves and what it writes. -/

namespace Sys2Proof.Machine

open Sys2Proof.Config

/-! `nextDraws` -/

@[simp] theorem nextDraws_cfg (s : State) : (s.nextDraws).cfg = s.cfg := rfl
@[simp] theorem nextDraws_regs (s : State) : (s.nextDraws).regs = s.regs := rfl
@[simp] theorem nextDraws_result (s : State) : (s.nextDraws).result = s.result := rfl
@[simp] theorem nextDraws_pending (s : State) : (s.nextDraws).pending = s.pending := rfl
@[simp] theorem nextDraws_done (s : State) : (s.nextDraws).done = s.done := rfl
@[simp] theorem nextDraws_err (s : State) : (s.nextDraws).err = s.err := rfl
@[simp] theorem nextDraws_dropped (s : State) : (s.nextDraws).dropped = s.dropped := rfl
@[simp] theorem nextDraws_errCode (s : State) : (s.nextDraws).errCode = s.errCode := rfl
@[simp] theorem nextDraws_errCmd (s : State) : (s.nextDraws).errCmd = s.errCmd := rfl
@[simp] theorem nextDraws_doneIe (s : State) : (s.nextDraws).doneIe = s.doneIe := rfl
@[simp] theorem nextDraws_errIe (s : State) : (s.nextDraws).errIe = s.errIe := rfl
@[simp] theorem nextDraws_src (s : State) : (s.nextDraws).src = s.src := rfl
@[simp] theorem nextDraws_dst (s : State) : (s.nextDraws).dst = s.dst := rfl
@[simp] theorem nextDraws_gridC (s : State) : (s.nextDraws).gridC = s.gridC := rfl
@[simp] theorem nextDraws_gridD (s : State) : (s.nextDraws).gridD = s.gridD := rfl
@[simp] theorem nextDraws_gridA (s : State) : (s.nextDraws).gridA = s.gridA := rfl
@[simp] theorem nextDraws_gridB (s : State) : (s.nextDraws).gridB = s.gridB := rfl
@[simp] theorem nextDraws_flt0 (s : State) : (s.nextDraws).flt0 = s.flt0 := rfl
@[simp] theorem nextDraws_flt1 (s : State) : (s.nextDraws).flt1 = s.flt1 := rfl
@[simp] theorem nextDraws_left1 (s : State) : (s.nextDraws).left1 = s.left1 := rfl
@[simp] theorem nextDraws_left2 (s : State) : (s.nextDraws).left2 = s.left2 := rfl
@[simp] theorem nextDraws_rdata (s : State) : (s.nextDraws).rdata = s.rdata := rfl
@[simp] theorem nextDraws_draws (s : State) : (s.nextDraws).draws = s.draws + 1 := rfl
@[simp] theorem nextDraws_script (s : State) : (s.nextDraws).script = s.script := rfl

/-! `dropWrite` -/

@[simp] theorem dropWrite_cfg (s : State) : (dropWrite s).cfg = s.cfg := rfl
@[simp] theorem dropWrite_regs (s : State) : (dropWrite s).regs = s.regs := rfl
@[simp] theorem dropWrite_result (s : State) : (dropWrite s).result = s.result := rfl
@[simp] theorem dropWrite_pending (s : State) : (dropWrite s).pending = s.pending := rfl
@[simp] theorem dropWrite_done (s : State) : (dropWrite s).done = s.done := rfl
@[simp] theorem dropWrite_err (s : State) : (dropWrite s).err = s.err := rfl
@[simp] theorem dropWrite_dropped (s : State) : (dropWrite s).dropped = true := rfl
@[simp] theorem dropWrite_errCode (s : State) : (dropWrite s).errCode = s.errCode := rfl
@[simp] theorem dropWrite_errCmd (s : State) : (dropWrite s).errCmd = s.errCmd := rfl
@[simp] theorem dropWrite_doneIe (s : State) : (dropWrite s).doneIe = s.doneIe := rfl
@[simp] theorem dropWrite_errIe (s : State) : (dropWrite s).errIe = s.errIe := rfl
@[simp] theorem dropWrite_src (s : State) : (dropWrite s).src = s.src := rfl
@[simp] theorem dropWrite_dst (s : State) : (dropWrite s).dst = s.dst := rfl
@[simp] theorem dropWrite_gridC (s : State) : (dropWrite s).gridC = s.gridC := rfl
@[simp] theorem dropWrite_gridD (s : State) : (dropWrite s).gridD = s.gridD := rfl
@[simp] theorem dropWrite_gridA (s : State) : (dropWrite s).gridA = s.gridA := rfl
@[simp] theorem dropWrite_gridB (s : State) : (dropWrite s).gridB = s.gridB := rfl
@[simp] theorem dropWrite_flt0 (s : State) : (dropWrite s).flt0 = s.flt0 := rfl
@[simp] theorem dropWrite_flt1 (s : State) : (dropWrite s).flt1 = s.flt1 := rfl
@[simp] theorem dropWrite_left1 (s : State) : (dropWrite s).left1 = s.left1 := rfl
@[simp] theorem dropWrite_left2 (s : State) : (dropWrite s).left2 = s.left2 := rfl
@[simp] theorem dropWrite_rdata (s : State) : (dropWrite s).rdata = s.rdata := rfl
@[simp] theorem dropWrite_draws (s : State) : (dropWrite s).draws = s.draws := rfl
@[simp] theorem dropWrite_script (s : State) : (dropWrite s).script = s.script := rfl

/-! `raiseError` -/

@[simp] theorem raiseError_cfg (e : ErrCode) (w : Word) (s : State) : (raiseError e w s).cfg = s.cfg := rfl
@[simp] theorem raiseError_regs (e : ErrCode) (w : Word) (s : State) : (raiseError e w s).regs = s.regs := rfl
@[simp] theorem raiseError_result (e : ErrCode) (w : Word) (s : State) : (raiseError e w s).result = s.result := rfl
@[simp] theorem raiseError_pending (e : ErrCode) (w : Word) (s : State) : (raiseError e w s).pending = s.pending := rfl
@[simp] theorem raiseError_done (e : ErrCode) (w : Word) (s : State) : (raiseError e w s).done = s.done := rfl
@[simp] theorem raiseError_err (e : ErrCode) (w : Word) (s : State) : (raiseError e w s).err = true := rfl
@[simp] theorem raiseError_dropped (e : ErrCode) (w : Word) (s : State) : (raiseError e w s).dropped = s.dropped := rfl
@[simp] theorem raiseError_errCode (e : ErrCode) (w : Word) (s : State) : (raiseError e w s).errCode = e.code := rfl
@[simp] theorem raiseError_errCmd (e : ErrCode) (w : Word) (s : State) : (raiseError e w s).errCmd = w := rfl
@[simp] theorem raiseError_doneIe (e : ErrCode) (w : Word) (s : State) : (raiseError e w s).doneIe = s.doneIe := rfl
@[simp] theorem raiseError_errIe (e : ErrCode) (w : Word) (s : State) : (raiseError e w s).errIe = s.errIe := rfl
@[simp] theorem raiseError_src (e : ErrCode) (w : Word) (s : State) : (raiseError e w s).src = s.src := rfl
@[simp] theorem raiseError_dst (e : ErrCode) (w : Word) (s : State) : (raiseError e w s).dst = s.dst := rfl
@[simp] theorem raiseError_gridC (e : ErrCode) (w : Word) (s : State) : (raiseError e w s).gridC = s.gridC := rfl
@[simp] theorem raiseError_gridD (e : ErrCode) (w : Word) (s : State) : (raiseError e w s).gridD = s.gridD := rfl
@[simp] theorem raiseError_gridA (e : ErrCode) (w : Word) (s : State) : (raiseError e w s).gridA = s.gridA := rfl
@[simp] theorem raiseError_gridB (e : ErrCode) (w : Word) (s : State) : (raiseError e w s).gridB = s.gridB := rfl
@[simp] theorem raiseError_flt0 (e : ErrCode) (w : Word) (s : State) : (raiseError e w s).flt0 = s.flt0 := rfl
@[simp] theorem raiseError_flt1 (e : ErrCode) (w : Word) (s : State) : (raiseError e w s).flt1 = s.flt1 := rfl
@[simp] theorem raiseError_left1 (e : ErrCode) (w : Word) (s : State) : (raiseError e w s).left1 = s.left1 := rfl
@[simp] theorem raiseError_left2 (e : ErrCode) (w : Word) (s : State) : (raiseError e w s).left2 = s.left2 := rfl
@[simp] theorem raiseError_rdata (e : ErrCode) (w : Word) (s : State) : (raiseError e w s).rdata = s.rdata := rfl
@[simp] theorem raiseError_draws (e : ErrCode) (w : Word) (s : State) : (raiseError e w s).draws = s.draws := rfl
@[simp] theorem raiseError_script (e : ErrCode) (w : Word) (s : State) : (raiseError e w s).script = s.script := rfl

/-! `clearFlags` -/

@[simp] theorem clearFlags_cfg (s : State) : (clearFlags s).cfg = s.cfg := rfl
@[simp] theorem clearFlags_regs (s : State) : (clearFlags s).regs = s.regs := rfl
@[simp] theorem clearFlags_result (s : State) : (clearFlags s).result = s.result := rfl
@[simp] theorem clearFlags_pending (s : State) : (clearFlags s).pending = s.pending := rfl
@[simp] theorem clearFlags_done (s : State) : (clearFlags s).done = false := rfl
@[simp] theorem clearFlags_err (s : State) : (clearFlags s).err = false := rfl
@[simp] theorem clearFlags_dropped (s : State) : (clearFlags s).dropped = false := rfl
@[simp] theorem clearFlags_errCode (s : State) : (clearFlags s).errCode = 0 := rfl
@[simp] theorem clearFlags_errCmd (s : State) : (clearFlags s).errCmd = 0 := rfl
@[simp] theorem clearFlags_doneIe (s : State) : (clearFlags s).doneIe = s.doneIe := rfl
@[simp] theorem clearFlags_errIe (s : State) : (clearFlags s).errIe = s.errIe := rfl
@[simp] theorem clearFlags_src (s : State) : (clearFlags s).src = s.src := rfl
@[simp] theorem clearFlags_dst (s : State) : (clearFlags s).dst = s.dst := rfl
@[simp] theorem clearFlags_gridC (s : State) : (clearFlags s).gridC = s.gridC := rfl
@[simp] theorem clearFlags_gridD (s : State) : (clearFlags s).gridD = s.gridD := rfl
@[simp] theorem clearFlags_gridA (s : State) : (clearFlags s).gridA = s.gridA := rfl
@[simp] theorem clearFlags_gridB (s : State) : (clearFlags s).gridB = s.gridB := rfl
@[simp] theorem clearFlags_flt0 (s : State) : (clearFlags s).flt0 = s.flt0 := rfl
@[simp] theorem clearFlags_flt1 (s : State) : (clearFlags s).flt1 = s.flt1 := rfl
@[simp] theorem clearFlags_left1 (s : State) : (clearFlags s).left1 = s.left1 := rfl
@[simp] theorem clearFlags_left2 (s : State) : (clearFlags s).left2 = s.left2 := rfl
@[simp] theorem clearFlags_rdata (s : State) : (clearFlags s).rdata = s.rdata := rfl
@[simp] theorem clearFlags_draws (s : State) : (clearFlags s).draws = s.draws := rfl
@[simp] theorem clearFlags_script (s : State) : (clearFlags s).script = s.script := rfl

/-! `complete` -/

@[simp] theorem complete_cfg (s : State) : (complete s).cfg = s.cfg := rfl
@[simp] theorem complete_regs (s : State) : (complete s).regs = s.regs := rfl
@[simp] theorem complete_result (s : State) : (complete s).result = s.result := rfl
@[simp] theorem complete_pending (s : State) : (complete s).pending = none := rfl
@[simp] theorem complete_done (s : State) : (complete s).done = true := rfl
@[simp] theorem complete_err (s : State) : (complete s).err = s.err := rfl
@[simp] theorem complete_dropped (s : State) : (complete s).dropped = s.dropped := rfl
@[simp] theorem complete_errCode (s : State) : (complete s).errCode = s.errCode := rfl
@[simp] theorem complete_errCmd (s : State) : (complete s).errCmd = s.errCmd := rfl
@[simp] theorem complete_doneIe (s : State) : (complete s).doneIe = s.doneIe := rfl
@[simp] theorem complete_errIe (s : State) : (complete s).errIe = s.errIe := rfl
@[simp] theorem complete_src (s : State) : (complete s).src = s.src := rfl
@[simp] theorem complete_dst (s : State) : (complete s).dst = s.dst := rfl
@[simp] theorem complete_gridC (s : State) : (complete s).gridC = s.gridC := rfl
@[simp] theorem complete_gridD (s : State) : (complete s).gridD = s.gridD := rfl
@[simp] theorem complete_gridA (s : State) : (complete s).gridA = s.gridA := rfl
@[simp] theorem complete_gridB (s : State) : (complete s).gridB = s.gridB := rfl
@[simp] theorem complete_flt0 (s : State) : (complete s).flt0 = s.flt0 := rfl
@[simp] theorem complete_flt1 (s : State) : (complete s).flt1 = s.flt1 := rfl
@[simp] theorem complete_left1 (s : State) : (complete s).left1 = s.left1 := rfl
@[simp] theorem complete_left2 (s : State) : (complete s).left2 = s.left2 := rfl
@[simp] theorem complete_rdata (s : State) : (complete s).rdata = s.rdata := rfl
@[simp] theorem complete_draws (s : State) : (complete s).draws = s.draws := rfl
@[simp] theorem complete_script (s : State) : (complete s).script = s.script := rfl

/-! `resetRegisters` -/

@[simp] theorem resetRegisters_cfg (s : State) : (resetRegisters s).cfg = s.cfg := rfl
@[simp] theorem resetRegisters_regs (s : State) : (resetRegisters s).regs = OperandRegs.reset := rfl
@[simp] theorem resetRegisters_result (s : State) : (resetRegisters s).result = 0 := rfl
@[simp] theorem resetRegisters_pending (s : State) : (resetRegisters s).pending = none := rfl
@[simp] theorem resetRegisters_done (s : State) : (resetRegisters s).done = false := rfl
@[simp] theorem resetRegisters_err (s : State) : (resetRegisters s).err = false := rfl
@[simp] theorem resetRegisters_dropped (s : State) : (resetRegisters s).dropped = false := rfl
@[simp] theorem resetRegisters_errCode (s : State) : (resetRegisters s).errCode = 0 := rfl
@[simp] theorem resetRegisters_errCmd (s : State) : (resetRegisters s).errCmd = 0 := rfl
@[simp] theorem resetRegisters_doneIe (s : State) : (resetRegisters s).doneIe = false := rfl
@[simp] theorem resetRegisters_errIe (s : State) : (resetRegisters s).errIe = false := rfl
@[simp] theorem resetRegisters_src (s : State) : (resetRegisters s).src = s.src := rfl
@[simp] theorem resetRegisters_dst (s : State) : (resetRegisters s).dst = s.dst := rfl
@[simp] theorem resetRegisters_gridC (s : State) : (resetRegisters s).gridC = s.gridC := rfl
@[simp] theorem resetRegisters_gridD (s : State) : (resetRegisters s).gridD = s.gridD := rfl
@[simp] theorem resetRegisters_gridA (s : State) : (resetRegisters s).gridA = s.gridA := rfl
@[simp] theorem resetRegisters_gridB (s : State) : (resetRegisters s).gridB = s.gridB := rfl
@[simp] theorem resetRegisters_flt0 (s : State) : (resetRegisters s).flt0 = s.flt0 := rfl
@[simp] theorem resetRegisters_flt1 (s : State) : (resetRegisters s).flt1 = s.flt1 := rfl
@[simp] theorem resetRegisters_left1 (s : State) : (resetRegisters s).left1 = s.left1 := rfl
@[simp] theorem resetRegisters_left2 (s : State) : (resetRegisters s).left2 = s.left2 := rfl
@[simp] theorem resetRegisters_rdata (s : State) : (resetRegisters s).rdata = s.rdata := rfl
@[simp] theorem resetRegisters_draws (s : State) : (resetRegisters s).draws = s.draws := rfl
@[simp] theorem resetRegisters_script (s : State) : (resetRegisters s).script = s.script := rfl

/-! `retire` -/

@[simp] theorem retire_cfg (s : State) : (s.retire).cfg = s.cfg := rfl
@[simp] theorem retire_regs (s : State) : (s.retire).regs = s.regs := rfl
@[simp] theorem retire_result (s : State) : (s.retire).result = s.result := rfl
@[simp] theorem retire_pending (s : State) : (s.retire).pending = s.pending := rfl
@[simp] theorem retire_done (s : State) : (s.retire).done = s.done := rfl
@[simp] theorem retire_err (s : State) : (s.retire).err = s.err := rfl
@[simp] theorem retire_dropped (s : State) : (s.retire).dropped = s.dropped := rfl
@[simp] theorem retire_errCode (s : State) : (s.retire).errCode = s.errCode := rfl
@[simp] theorem retire_errCmd (s : State) : (s.retire).errCmd = s.errCmd := rfl
@[simp] theorem retire_doneIe (s : State) : (s.retire).doneIe = s.doneIe := rfl
@[simp] theorem retire_errIe (s : State) : (s.retire).errIe = s.errIe := rfl
@[simp] theorem retire_src (s : State) : (s.retire).src = s.src := rfl
@[simp] theorem retire_dst (s : State) : (s.retire).dst = s.dst := rfl
@[simp] theorem retire_gridC (s : State) : (s.retire).gridC = s.gridC := rfl
@[simp] theorem retire_gridD (s : State) : (s.retire).gridD = s.gridD := rfl
@[simp] theorem retire_gridA (s : State) : (s.retire).gridA = s.gridA := rfl
@[simp] theorem retire_gridB (s : State) : (s.retire).gridB = s.gridB := rfl
@[simp] theorem retire_flt0 (s : State) : (s.retire).flt0 = s.flt0 := rfl
@[simp] theorem retire_flt1 (s : State) : (s.retire).flt1 = s.flt1 := rfl
@[simp] theorem retire_left1 (s : State) : (s.retire).left1 = s.left1 := rfl
@[simp] theorem retire_left2 (s : State) : (s.retire).left2 = s.left2 := rfl
@[simp] theorem retire_rdata (s : State) : (s.retire).rdata = s.rdata := rfl
@[simp] theorem retire_draws (s : State) : (s.retire).draws = s.draws := rfl
@[simp] theorem retire_script (s : State) : (s.retire).script = s.script.tail := rfl

/-! `clearImageCell` -/

@[simp] theorem clearImageCell_cfg (a : Nat) (s : State) : (clearImageCell a s).cfg = s.cfg := rfl
@[simp] theorem clearImageCell_regs (a : Nat) (s : State) : (clearImageCell a s).regs = s.regs := rfl
@[simp] theorem clearImageCell_result (a : Nat) (s : State) : (clearImageCell a s).result = s.result := rfl
@[simp] theorem clearImageCell_pending (a : Nat) (s : State) : (clearImageCell a s).pending = s.pending := rfl
@[simp] theorem clearImageCell_done (a : Nat) (s : State) : (clearImageCell a s).done = s.done := rfl
@[simp] theorem clearImageCell_err (a : Nat) (s : State) : (clearImageCell a s).err = s.err := rfl
@[simp] theorem clearImageCell_dropped (a : Nat) (s : State) : (clearImageCell a s).dropped = s.dropped := rfl
@[simp] theorem clearImageCell_errCode (a : Nat) (s : State) : (clearImageCell a s).errCode = s.errCode := rfl
@[simp] theorem clearImageCell_errCmd (a : Nat) (s : State) : (clearImageCell a s).errCmd = s.errCmd := rfl
@[simp] theorem clearImageCell_doneIe (a : Nat) (s : State) : (clearImageCell a s).doneIe = s.doneIe := rfl
@[simp] theorem clearImageCell_errIe (a : Nat) (s : State) : (clearImageCell a s).errIe = s.errIe := rfl
@[simp] theorem clearImageCell_src (a : Nat) (s : State) : (clearImageCell a s).src = s.src := rfl
@[simp] theorem clearImageCell_dst (a : Nat) (s : State) : (clearImageCell a s).dst = s.dst := rfl
@[simp] theorem clearImageCell_gridC (a : Nat) (s : State) : (clearImageCell a s).gridC = Memory.set s.gridC a 0 := rfl
@[simp] theorem clearImageCell_gridD (a : Nat) (s : State) : (clearImageCell a s).gridD = Memory.set s.gridD a 0 := rfl
@[simp] theorem clearImageCell_gridA (a : Nat) (s : State) : (clearImageCell a s).gridA = s.gridA := rfl
@[simp] theorem clearImageCell_gridB (a : Nat) (s : State) : (clearImageCell a s).gridB = s.gridB := rfl
@[simp] theorem clearImageCell_flt0 (a : Nat) (s : State) : (clearImageCell a s).flt0 = s.flt0 := rfl
@[simp] theorem clearImageCell_flt1 (a : Nat) (s : State) : (clearImageCell a s).flt1 = s.flt1 := rfl
@[simp] theorem clearImageCell_left1 (a : Nat) (s : State) : (clearImageCell a s).left1 = s.left1 := rfl
@[simp] theorem clearImageCell_left2 (a : Nat) (s : State) : (clearImageCell a s).left2 = s.left2 := rfl
@[simp] theorem clearImageCell_rdata (a : Nat) (s : State) : (clearImageCell a s).rdata = s.rdata := rfl
@[simp] theorem clearImageCell_draws (a : Nat) (s : State) : (clearImageCell a s).draws = s.draws := rfl
@[simp] theorem clearImageCell_script (a : Nat) (s : State) : (clearImageCell a s).script = s.script := rfl

/-! `hardReset` -/

@[simp] theorem hardReset_cfg (s : State) : (hardReset s).cfg = s.cfg := rfl
@[simp] theorem hardReset_regs (s : State) : (hardReset s).regs = OperandRegs.reset := rfl
@[simp] theorem hardReset_result (s : State) : (hardReset s).result = 0 := rfl
@[simp] theorem hardReset_pending (s : State) : (hardReset s).pending = none := rfl
@[simp] theorem hardReset_done (s : State) : (hardReset s).done = false := rfl
@[simp] theorem hardReset_err (s : State) : (hardReset s).err = false := rfl
@[simp] theorem hardReset_dropped (s : State) : (hardReset s).dropped = false := rfl
@[simp] theorem hardReset_errCode (s : State) : (hardReset s).errCode = 0 := rfl
@[simp] theorem hardReset_errCmd (s : State) : (hardReset s).errCmd = 0 := rfl
@[simp] theorem hardReset_doneIe (s : State) : (hardReset s).doneIe = false := rfl
@[simp] theorem hardReset_errIe (s : State) : (hardReset s).errIe = false := rfl
@[simp] theorem hardReset_src (s : State) : (hardReset s).src = [] := rfl
@[simp] theorem hardReset_dst (s : State) : (hardReset s).dst = [] := rfl
@[simp] theorem hardReset_gridC (s : State) : (hardReset s).gridC = [] := rfl
@[simp] theorem hardReset_gridD (s : State) : (hardReset s).gridD = [] := rfl
@[simp] theorem hardReset_gridA (s : State) : (hardReset s).gridA = [] := rfl
@[simp] theorem hardReset_gridB (s : State) : (hardReset s).gridB = [] := rfl
@[simp] theorem hardReset_flt0 (s : State) : (hardReset s).flt0 = [] := rfl
@[simp] theorem hardReset_flt1 (s : State) : (hardReset s).flt1 = [] := rfl
@[simp] theorem hardReset_left1 (s : State) : (hardReset s).left1 = 0 := rfl
@[simp] theorem hardReset_left2 (s : State) : (hardReset s).left2 = 0 := rfl
@[simp] theorem hardReset_rdata (s : State) : (hardReset s).rdata = s.rdata := rfl
@[simp] theorem hardReset_draws (s : State) : (hardReset s).draws = s.draws := rfl
@[simp] theorem hardReset_script (s : State) : (hardReset s).script = s.script := rfl

/-! `buildCell`, the fields it leaves -/

@[simp] theorem buildCell_cfg (r : OperandRegs) (y x : Nat) (s : State) : (buildCell r y s x).cfg = s.cfg := rfl
@[simp] theorem buildCell_regs (r : OperandRegs) (y x : Nat) (s : State) : (buildCell r y s x).regs = s.regs := rfl
@[simp] theorem buildCell_result (r : OperandRegs) (y x : Nat) (s : State) : (buildCell r y s x).result = s.result := rfl
@[simp] theorem buildCell_pending (r : OperandRegs) (y x : Nat) (s : State) : (buildCell r y s x).pending = s.pending := rfl
@[simp] theorem buildCell_done (r : OperandRegs) (y x : Nat) (s : State) : (buildCell r y s x).done = s.done := rfl
@[simp] theorem buildCell_err (r : OperandRegs) (y x : Nat) (s : State) : (buildCell r y s x).err = s.err := rfl
@[simp] theorem buildCell_dropped (r : OperandRegs) (y x : Nat) (s : State) : (buildCell r y s x).dropped = s.dropped := rfl
@[simp] theorem buildCell_errCode (r : OperandRegs) (y x : Nat) (s : State) : (buildCell r y s x).errCode = s.errCode := rfl
@[simp] theorem buildCell_errCmd (r : OperandRegs) (y x : Nat) (s : State) : (buildCell r y s x).errCmd = s.errCmd := rfl
@[simp] theorem buildCell_doneIe (r : OperandRegs) (y x : Nat) (s : State) : (buildCell r y s x).doneIe = s.doneIe := rfl
@[simp] theorem buildCell_errIe (r : OperandRegs) (y x : Nat) (s : State) : (buildCell r y s x).errIe = s.errIe := rfl
@[simp] theorem buildCell_src (r : OperandRegs) (y x : Nat) (s : State) : (buildCell r y s x).src = s.src := rfl
@[simp] theorem buildCell_dst (r : OperandRegs) (y x : Nat) (s : State) : (buildCell r y s x).dst = s.dst := rfl
@[simp] theorem buildCell_gridA (r : OperandRegs) (y x : Nat) (s : State) : (buildCell r y s x).gridA = s.gridA := rfl
@[simp] theorem buildCell_gridB (r : OperandRegs) (y x : Nat) (s : State) : (buildCell r y s x).gridB = s.gridB := rfl
@[simp] theorem buildCell_flt0 (r : OperandRegs) (y x : Nat) (s : State) : (buildCell r y s x).flt0 = s.flt0 := rfl
@[simp] theorem buildCell_flt1 (r : OperandRegs) (y x : Nat) (s : State) : (buildCell r y s x).flt1 = s.flt1 := rfl
@[simp] theorem buildCell_rdata (r : OperandRegs) (y x : Nat) (s : State) : (buildCell r y s x).rdata = s.rdata := rfl
@[simp] theorem buildCell_draws (r : OperandRegs) (y x : Nat) (s : State) : (buildCell r y s x).draws = s.draws := rfl
@[simp] theorem buildCell_script (r : OperandRegs) (y x : Nat) (s : State) : (buildCell r y s x).script = s.script := rfl

/-! `boxSumQuery`, the fields it leaves -/

@[simp] theorem boxSumQuery_cfg (ch : Channel) (rad : Nat) (r : OperandRegs) (s : State) : (boxSumQuery ch rad r s).cfg = s.cfg := rfl
@[simp] theorem boxSumQuery_regs (ch : Channel) (rad : Nat) (r : OperandRegs) (s : State) : (boxSumQuery ch rad r s).regs = s.regs := rfl
@[simp] theorem boxSumQuery_pending (ch : Channel) (rad : Nat) (r : OperandRegs) (s : State) : (boxSumQuery ch rad r s).pending = s.pending := rfl
@[simp] theorem boxSumQuery_done (ch : Channel) (rad : Nat) (r : OperandRegs) (s : State) : (boxSumQuery ch rad r s).done = s.done := rfl
@[simp] theorem boxSumQuery_err (ch : Channel) (rad : Nat) (r : OperandRegs) (s : State) : (boxSumQuery ch rad r s).err = s.err := rfl
@[simp] theorem boxSumQuery_dropped (ch : Channel) (rad : Nat) (r : OperandRegs) (s : State) : (boxSumQuery ch rad r s).dropped = s.dropped := rfl
@[simp] theorem boxSumQuery_errCode (ch : Channel) (rad : Nat) (r : OperandRegs) (s : State) : (boxSumQuery ch rad r s).errCode = s.errCode := rfl
@[simp] theorem boxSumQuery_errCmd (ch : Channel) (rad : Nat) (r : OperandRegs) (s : State) : (boxSumQuery ch rad r s).errCmd = s.errCmd := rfl
@[simp] theorem boxSumQuery_doneIe (ch : Channel) (rad : Nat) (r : OperandRegs) (s : State) : (boxSumQuery ch rad r s).doneIe = s.doneIe := rfl
@[simp] theorem boxSumQuery_errIe (ch : Channel) (rad : Nat) (r : OperandRegs) (s : State) : (boxSumQuery ch rad r s).errIe = s.errIe := rfl
@[simp] theorem boxSumQuery_src (ch : Channel) (rad : Nat) (r : OperandRegs) (s : State) : (boxSumQuery ch rad r s).src = s.src := rfl
@[simp] theorem boxSumQuery_dst (ch : Channel) (rad : Nat) (r : OperandRegs) (s : State) : (boxSumQuery ch rad r s).dst = s.dst := rfl
@[simp] theorem boxSumQuery_gridC (ch : Channel) (rad : Nat) (r : OperandRegs) (s : State) : (boxSumQuery ch rad r s).gridC = s.gridC := rfl
@[simp] theorem boxSumQuery_gridD (ch : Channel) (rad : Nat) (r : OperandRegs) (s : State) : (boxSumQuery ch rad r s).gridD = s.gridD := rfl
@[simp] theorem boxSumQuery_gridA (ch : Channel) (rad : Nat) (r : OperandRegs) (s : State) : (boxSumQuery ch rad r s).gridA = s.gridA := rfl
@[simp] theorem boxSumQuery_gridB (ch : Channel) (rad : Nat) (r : OperandRegs) (s : State) : (boxSumQuery ch rad r s).gridB = s.gridB := rfl
@[simp] theorem boxSumQuery_flt0 (ch : Channel) (rad : Nat) (r : OperandRegs) (s : State) : (boxSumQuery ch rad r s).flt0 = s.flt0 := rfl
@[simp] theorem boxSumQuery_flt1 (ch : Channel) (rad : Nat) (r : OperandRegs) (s : State) : (boxSumQuery ch rad r s).flt1 = s.flt1 := rfl
@[simp] theorem boxSumQuery_left1 (ch : Channel) (rad : Nat) (r : OperandRegs) (s : State) : (boxSumQuery ch rad r s).left1 = s.left1 := rfl
@[simp] theorem boxSumQuery_left2 (ch : Channel) (rad : Nat) (r : OperandRegs) (s : State) : (boxSumQuery ch rad r s).left2 = s.left2 := rfl
@[simp] theorem boxSumQuery_rdata (ch : Channel) (rad : Nat) (r : OperandRegs) (s : State) : (boxSumQuery ch rad r s).rdata = s.rdata := rfl
@[simp] theorem boxSumQuery_script (ch : Channel) (rad : Nat) (r : OperandRegs) (s : State) : (boxSumQuery ch rad r s).script = s.script := rfl

/-! `estimate`, the fields it leaves -/

@[simp] theorem estimate_cfg (cells : List (Int × Int)) (k : Slot) (r : OperandRegs) (s : State) : (estimate cells k r s).cfg = s.cfg := rfl
@[simp] theorem estimate_regs (cells : List (Int × Int)) (k : Slot) (r : OperandRegs) (s : State) : (estimate cells k r s).regs = s.regs := rfl
@[simp] theorem estimate_result (cells : List (Int × Int)) (k : Slot) (r : OperandRegs) (s : State) : (estimate cells k r s).result = s.result := rfl
@[simp] theorem estimate_pending (cells : List (Int × Int)) (k : Slot) (r : OperandRegs) (s : State) : (estimate cells k r s).pending = s.pending := rfl
@[simp] theorem estimate_done (cells : List (Int × Int)) (k : Slot) (r : OperandRegs) (s : State) : (estimate cells k r s).done = s.done := rfl
@[simp] theorem estimate_err (cells : List (Int × Int)) (k : Slot) (r : OperandRegs) (s : State) : (estimate cells k r s).err = s.err := rfl
@[simp] theorem estimate_dropped (cells : List (Int × Int)) (k : Slot) (r : OperandRegs) (s : State) : (estimate cells k r s).dropped = s.dropped := rfl
@[simp] theorem estimate_errCode (cells : List (Int × Int)) (k : Slot) (r : OperandRegs) (s : State) : (estimate cells k r s).errCode = s.errCode := rfl
@[simp] theorem estimate_errCmd (cells : List (Int × Int)) (k : Slot) (r : OperandRegs) (s : State) : (estimate cells k r s).errCmd = s.errCmd := rfl
@[simp] theorem estimate_doneIe (cells : List (Int × Int)) (k : Slot) (r : OperandRegs) (s : State) : (estimate cells k r s).doneIe = s.doneIe := rfl
@[simp] theorem estimate_errIe (cells : List (Int × Int)) (k : Slot) (r : OperandRegs) (s : State) : (estimate cells k r s).errIe = s.errIe := rfl
@[simp] theorem estimate_src (cells : List (Int × Int)) (k : Slot) (r : OperandRegs) (s : State) : (estimate cells k r s).src = s.src := rfl
@[simp] theorem estimate_dst (cells : List (Int × Int)) (k : Slot) (r : OperandRegs) (s : State) : (estimate cells k r s).dst = s.dst := rfl
@[simp] theorem estimate_gridC (cells : List (Int × Int)) (k : Slot) (r : OperandRegs) (s : State) : (estimate cells k r s).gridC = s.gridC := rfl
@[simp] theorem estimate_gridD (cells : List (Int × Int)) (k : Slot) (r : OperandRegs) (s : State) : (estimate cells k r s).gridD = s.gridD := rfl
@[simp] theorem estimate_flt0 (cells : List (Int × Int)) (k : Slot) (r : OperandRegs) (s : State) : (estimate cells k r s).flt0 = s.flt0 := rfl
@[simp] theorem estimate_flt1 (cells : List (Int × Int)) (k : Slot) (r : OperandRegs) (s : State) : (estimate cells k r s).flt1 = s.flt1 := rfl
@[simp] theorem estimate_left1 (cells : List (Int × Int)) (k : Slot) (r : OperandRegs) (s : State) : (estimate cells k r s).left1 = s.left1 := rfl
@[simp] theorem estimate_left2 (cells : List (Int × Int)) (k : Slot) (r : OperandRegs) (s : State) : (estimate cells k r s).left2 = s.left2 := rfl
@[simp] theorem estimate_rdata (cells : List (Int × Int)) (k : Slot) (r : OperandRegs) (s : State) : (estimate cells k r s).rdata = s.rdata := rfl
@[simp] theorem estimate_script (cells : List (Int × Int)) (k : Slot) (r : OperandRegs) (s : State) : (estimate cells k r s).script = s.script := rfl

/-! `blendBody`, the fields it leaves -/

@[simp] theorem blendBody_cfg (r : OperandRegs) (s : State) : (blendBody r s).cfg = s.cfg := rfl
@[simp] theorem blendBody_regs (r : OperandRegs) (s : State) : (blendBody r s).regs = s.regs := rfl
@[simp] theorem blendBody_result (r : OperandRegs) (s : State) : (blendBody r s).result = s.result := rfl
@[simp] theorem blendBody_pending (r : OperandRegs) (s : State) : (blendBody r s).pending = s.pending := rfl
@[simp] theorem blendBody_done (r : OperandRegs) (s : State) : (blendBody r s).done = s.done := rfl
@[simp] theorem blendBody_err (r : OperandRegs) (s : State) : (blendBody r s).err = s.err := rfl
@[simp] theorem blendBody_dropped (r : OperandRegs) (s : State) : (blendBody r s).dropped = s.dropped := rfl
@[simp] theorem blendBody_errCode (r : OperandRegs) (s : State) : (blendBody r s).errCode = s.errCode := rfl
@[simp] theorem blendBody_errCmd (r : OperandRegs) (s : State) : (blendBody r s).errCmd = s.errCmd := rfl
@[simp] theorem blendBody_doneIe (r : OperandRegs) (s : State) : (blendBody r s).doneIe = s.doneIe := rfl
@[simp] theorem blendBody_errIe (r : OperandRegs) (s : State) : (blendBody r s).errIe = s.errIe := rfl
@[simp] theorem blendBody_src (r : OperandRegs) (s : State) : (blendBody r s).src = s.src := rfl
@[simp] theorem blendBody_gridC (r : OperandRegs) (s : State) : (blendBody r s).gridC = s.gridC := rfl
@[simp] theorem blendBody_gridD (r : OperandRegs) (s : State) : (blendBody r s).gridD = s.gridD := rfl
@[simp] theorem blendBody_gridA (r : OperandRegs) (s : State) : (blendBody r s).gridA = s.gridA := rfl
@[simp] theorem blendBody_gridB (r : OperandRegs) (s : State) : (blendBody r s).gridB = s.gridB := rfl
@[simp] theorem blendBody_flt0 (r : OperandRegs) (s : State) : (blendBody r s).flt0 = s.flt0 := rfl
@[simp] theorem blendBody_flt1 (r : OperandRegs) (s : State) : (blendBody r s).flt1 = s.flt1 := rfl
@[simp] theorem blendBody_left1 (r : OperandRegs) (s : State) : (blendBody r s).left1 = s.left1 := rfl
@[simp] theorem blendBody_left2 (r : OperandRegs) (s : State) : (blendBody r s).left2 = s.left2 := rfl
@[simp] theorem blendBody_rdata (r : OperandRegs) (s : State) : (blendBody r s).rdata = s.rdata := rfl
@[simp] theorem blendBody_script (r : OperandRegs) (s : State) : (blendBody r s).script = s.script := rfl

@[simp] theorem boxSumQuery_draws (ch : Channel) (rad : Nat) (r : OperandRegs) (s : State) : (boxSumQuery ch rad r s).draws = s.draws + 1 := rfl
@[simp] theorem estimate_draws (cells : List (Int × Int)) (k : Slot) (r : OperandRegs) (s : State) : (estimate cells k r s).draws = s.draws + 1 := rfl
@[simp] theorem blendBody_draws (r : OperandRegs) (s : State) : (blendBody r s).draws = s.draws + 1 := rfl

/-! The grid and plane accessors against their updates -/

@[simp] theorem setGrid_cfg (s : State) (g : Grid) (m : Memory 32) : (s.setGrid g m).cfg = s.cfg := by
  cases g <;> rfl
@[simp] theorem setGrid_regs (s : State) (g : Grid) (m : Memory 32) : (s.setGrid g m).regs = s.regs := by
  cases g <;> rfl
@[simp] theorem setGrid_result (s : State) (g : Grid) (m : Memory 32) : (s.setGrid g m).result = s.result := by
  cases g <;> rfl
@[simp] theorem setGrid_pending (s : State) (g : Grid) (m : Memory 32) : (s.setGrid g m).pending = s.pending := by
  cases g <;> rfl
@[simp] theorem setGrid_done (s : State) (g : Grid) (m : Memory 32) : (s.setGrid g m).done = s.done := by
  cases g <;> rfl
@[simp] theorem setGrid_err (s : State) (g : Grid) (m : Memory 32) : (s.setGrid g m).err = s.err := by
  cases g <;> rfl
@[simp] theorem setGrid_dropped (s : State) (g : Grid) (m : Memory 32) : (s.setGrid g m).dropped = s.dropped := by
  cases g <;> rfl
@[simp] theorem setGrid_errCode (s : State) (g : Grid) (m : Memory 32) : (s.setGrid g m).errCode = s.errCode := by
  cases g <;> rfl
@[simp] theorem setGrid_errCmd (s : State) (g : Grid) (m : Memory 32) : (s.setGrid g m).errCmd = s.errCmd := by
  cases g <;> rfl
@[simp] theorem setGrid_doneIe (s : State) (g : Grid) (m : Memory 32) : (s.setGrid g m).doneIe = s.doneIe := by
  cases g <;> rfl
@[simp] theorem setGrid_errIe (s : State) (g : Grid) (m : Memory 32) : (s.setGrid g m).errIe = s.errIe := by
  cases g <;> rfl
@[simp] theorem setGrid_src (s : State) (g : Grid) (m : Memory 32) : (s.setGrid g m).src = s.src := by
  cases g <;> rfl
@[simp] theorem setGrid_dst (s : State) (g : Grid) (m : Memory 32) : (s.setGrid g m).dst = s.dst := by
  cases g <;> rfl
@[simp] theorem setGrid_left1 (s : State) (g : Grid) (m : Memory 32) : (s.setGrid g m).left1 = s.left1 := by
  cases g <;> rfl
@[simp] theorem setGrid_left2 (s : State) (g : Grid) (m : Memory 32) : (s.setGrid g m).left2 = s.left2 := by
  cases g <;> rfl
@[simp] theorem setGrid_rdata (s : State) (g : Grid) (m : Memory 32) : (s.setGrid g m).rdata = s.rdata := by
  cases g <;> rfl
@[simp] theorem setGrid_draws (s : State) (g : Grid) (m : Memory 32) : (s.setGrid g m).draws = s.draws := by
  cases g <;> rfl
@[simp] theorem setGrid_script (s : State) (g : Grid) (m : Memory 32) : (s.setGrid g m).script = s.script := by
  cases g <;> rfl
@[simp] theorem setPlane_cfg (s : State) (p : Plane) (m : Memory 16) : (s.setPlane p m).cfg = s.cfg := by
  cases p <;> rfl
@[simp] theorem setPlane_regs (s : State) (p : Plane) (m : Memory 16) : (s.setPlane p m).regs = s.regs := by
  cases p <;> rfl
@[simp] theorem setPlane_result (s : State) (p : Plane) (m : Memory 16) : (s.setPlane p m).result = s.result := by
  cases p <;> rfl
@[simp] theorem setPlane_pending (s : State) (p : Plane) (m : Memory 16) : (s.setPlane p m).pending = s.pending := by
  cases p <;> rfl
@[simp] theorem setPlane_done (s : State) (p : Plane) (m : Memory 16) : (s.setPlane p m).done = s.done := by
  cases p <;> rfl
@[simp] theorem setPlane_err (s : State) (p : Plane) (m : Memory 16) : (s.setPlane p m).err = s.err := by
  cases p <;> rfl
@[simp] theorem setPlane_dropped (s : State) (p : Plane) (m : Memory 16) : (s.setPlane p m).dropped = s.dropped := by
  cases p <;> rfl
@[simp] theorem setPlane_errCode (s : State) (p : Plane) (m : Memory 16) : (s.setPlane p m).errCode = s.errCode := by
  cases p <;> rfl
@[simp] theorem setPlane_errCmd (s : State) (p : Plane) (m : Memory 16) : (s.setPlane p m).errCmd = s.errCmd := by
  cases p <;> rfl
@[simp] theorem setPlane_doneIe (s : State) (p : Plane) (m : Memory 16) : (s.setPlane p m).doneIe = s.doneIe := by
  cases p <;> rfl
@[simp] theorem setPlane_errIe (s : State) (p : Plane) (m : Memory 16) : (s.setPlane p m).errIe = s.errIe := by
  cases p <;> rfl
@[simp] theorem setPlane_gridC (s : State) (p : Plane) (m : Memory 16) : (s.setPlane p m).gridC = s.gridC := by
  cases p <;> rfl
@[simp] theorem setPlane_gridD (s : State) (p : Plane) (m : Memory 16) : (s.setPlane p m).gridD = s.gridD := by
  cases p <;> rfl
@[simp] theorem setPlane_gridA (s : State) (p : Plane) (m : Memory 16) : (s.setPlane p m).gridA = s.gridA := by
  cases p <;> rfl
@[simp] theorem setPlane_gridB (s : State) (p : Plane) (m : Memory 16) : (s.setPlane p m).gridB = s.gridB := by
  cases p <;> rfl
@[simp] theorem setPlane_flt0 (s : State) (p : Plane) (m : Memory 16) : (s.setPlane p m).flt0 = s.flt0 := by
  cases p <;> rfl
@[simp] theorem setPlane_flt1 (s : State) (p : Plane) (m : Memory 16) : (s.setPlane p m).flt1 = s.flt1 := by
  cases p <;> rfl
@[simp] theorem setPlane_left1 (s : State) (p : Plane) (m : Memory 16) : (s.setPlane p m).left1 = s.left1 := by
  cases p <;> rfl
@[simp] theorem setPlane_left2 (s : State) (p : Plane) (m : Memory 16) : (s.setPlane p m).left2 = s.left2 := by
  cases p <;> rfl
@[simp] theorem setPlane_rdata (s : State) (p : Plane) (m : Memory 16) : (s.setPlane p m).rdata = s.rdata := by
  cases p <;> rfl
@[simp] theorem setPlane_draws (s : State) (p : Plane) (m : Memory 16) : (s.setPlane p m).draws = s.draws := by
  cases p <;> rfl
@[simp] theorem setPlane_script (s : State) (p : Plane) (m : Memory 16) : (s.setPlane p m).script = s.script := by
  cases p <;> rfl

theorem grid_setGrid (s : State) (g h : Grid) (m : Memory 32) :
    (s.setGrid g m).grid h = if h = g then m else s.grid h := by
  cases g <;> cases h <;> rfl

@[simp] theorem grid_setGrid_self (s : State) (g : Grid) (m : Memory 32) : (s.setGrid g m).grid g = m := by
  cases g <;> rfl

theorem plane_setPlane (s : State) (p q : Plane) (m : Memory 16) :
    (s.setPlane p m).plane q = if q = p then m else s.plane q := by
  cases p <;> cases q <;> rfl

@[simp] theorem grid_nextDraws (s : State) (g : Grid) : s.nextDraws.grid g = s.grid g := by
  cases g <;> rfl

@[simp] theorem plane_nextDraws (s : State) (p : Plane) : s.nextDraws.plane p = s.plane p := by
  cases p <;> rfl

@[simp] theorem grid_complete (s : State) (g : Grid) : (complete s).grid g = s.grid g := by
  cases g <;> rfl

@[simp] theorem grid_setPlane (s : State) (p : Plane) (m : Memory 16) (g : Grid) :
    (s.setPlane p m).grid g = s.grid g := by
  cases p <;> cases g <;> rfl

@[simp] theorem plane_setGrid (s : State) (g : Grid) (m : Memory 32) (p : Plane) :
    (s.setGrid g m).plane p = s.plane p := by
  cases p <;> cases g <;> rfl

@[simp] theorem busy_eq_false (s : State) : s.busy = false ↔ s.pending = none := by
  simp [State.busy, Option.isSome_eq_false_iff]

@[simp] theorem busy_eq_true (s : State) : s.busy = true ↔ ∃ p, s.pending = some p := by
  simp [State.busy, Option.isSome_iff_exists]

end Sys2Proof.Machine
end

