-- ==== Sys2Proof/Laws/Operations.lean ====
section
/-! SUPPORT. What each shared operation can do, said once: acceptance, completion, control, the three stages that write a list of
cells, and one step. -/

namespace Sys2Proof.Machine

open Sys2Proof.Config

/-- All the acceptance of a command can do (R84). -/
theorem accept_cases (i : Instr) (s : State) :
    (s.err = true ∧ accept i s = dropWrite s) ∨
    (∃ e, s.err = false ∧ firstFailure i s.cfg s.regs = some e ∧ accept i s = raiseError e (encode i) s) ∨
    (s.err = false ∧ firstFailure i s.cfg s.regs = none ∧
      accept i s = { s with pending := some ⟨encode i, s.regs⟩, done := false }) := by
  unfold accept
  cases he : s.err
  · cases hf : firstFailure i s.cfg s.regs <;> simp
  · simp

/-- An operation command on an idle block is its acceptance. -/
theorem operation_idle {i : Instr} {body : OperandRegs → State → State} {s : State} (h : s.pending = none) :
    operation i body s = .next (accept i s) := by
  simp [operation, h]

/-- An operation command that is pending runs its body on the snapshot and completes. -/
theorem operation_pending {i : Instr} {body : OperandRegs → State → State} {s : State} {p : Pending}
    (h : s.pending = some p) : operation i body s = .next (complete (body p.regs s)) := by
  simp [operation, h]

/-- All an operation command can do. -/
theorem operation_cases {i : Instr} {body : OperandRegs → State → State} {s t : State}
    (h : operation i body s = .next t) :
    (s.pending = none ∧ t = accept i s) ∨ ∃ p, s.pending = some p ∧ t = complete (body p.regs s) := by
  cases hp : s.pending with
  | none =>
    rw [operation_idle hp] at h
    cases h
    exact .inl ⟨rfl, rfl⟩
  | some p =>
    rw [operation_pending hp] at h
    cases h
    exact .inr ⟨p, rfl, rfl⟩

/-- The body of an operation command: the shared operation its meaning runs when it is pending. -/
def bodyOf : Instr → OperandRegs → State → State
  | .nop => fun _ s => s
  | .buildII => buildImages
  | .boxsum ch rad => boxSumQuery ch rad
  | .calcAb k => calcAbBody k
  | .calcAbFast k => calcAbFastBody k
  | .finalFilter k => finalFilterBody k
  | .finalFilterFast k => finalFilterFastBody k
  | .blend => blendBody
  | .restore => restoreBody
  | .apply => applyBody
  | .clr => fun _ s => s
  | .srst => fun _ s => s

/-- Every operation command is `operation` over its body. -/
theorem exec_operation {i : Instr} (hi : isOperation i = true) (s : State) : exec i s = operation i (bodyOf i) s := by
  cases i <;> first | rfl | simp [isOperation] at hi

/-- Every command answers a next state. -/
theorem exec_next (i : Instr) (s : State) : ∃ t, exec i s = .next t := by
  cases hi : isOperation i
  · cases i <;> first | exact ⟨_, rfl⟩ | simp [isOperation] at hi
  · rw [exec_operation hi]
    cases hp : s.pending with
    | none => exact ⟨_, operation_idle hp⟩
    | some p => exact ⟨_, operation_pending hp⟩

/-- What the estimator does to the reads of `A` and `B`: the pairs of its cells, and nothing elsewhere. -/
theorem get?_estimate {cells : List (Int × Int)} {k : Slot} {r : OperandRegs} {s : State}
    (hinj : ∀ p ∈ cells, ∀ q ∈ cells, posAddr s.cfg r p.1 p.2 = posAddr s.cfg r q.1 q.2 → p = q) :
    (∀ p ∈ cells,
      Memory.get? (estimate cells k r s).gridA (posAddr s.cfg r p.1 p.2) = some (s.coef r k p.1 p.2).1 ∧
      Memory.get? (estimate cells k r s).gridB (posAddr s.cfg r p.1 p.2) = some (s.coef r k p.1 p.2).2) ∧
    ∀ a, (∀ p ∈ cells, posAddr s.cfg r p.1 p.2 ≠ a) →
      Memory.get? (estimate cells k r s).gridA a = Memory.get? s.gridA a ∧
      Memory.get? (estimate cells k r s).gridB a = Memory.get? s.gridB a := by
  have hA := get?_setAll_map s.gridA cells (fun p => posAddr s.cfg r p.1 p.2) (fun p => (s.coef r k p.1 p.2).1) hinj
  have hB := get?_setAll_map s.gridB cells (fun p => posAddr s.cfg r p.1 p.2) (fun p => (s.coef r k p.1 p.2).2) hinj
  exact ⟨fun p hp => ⟨hA.1 p hp, hB.1 p hp⟩, fun a ha => ⟨hA.2 a ha, hB.2 a ha⟩⟩

/-- The interpolator as an update of one grid. -/
theorem interpolate_eq (value : Nat → Nat → Word) (k : Slot) (r : OperandRegs) (s : State) :
    interpolate value k r s = ((s.setGrid (fltGrid k) (Memory.setAll (s.grid (fltGrid k))
      ((unitPositions r).map fun p => (fltAddr r p.1 p.2, value p.1 p.2)))).nextDraws) := rfl

/-- What the interpolator does to the reads of `FLTk`. -/
theorem get?_interpolate (value : Nat → Nat → Word) (k : Slot) (r : OperandRegs) (s : State) :
    (∀ i j, i < r.height.toNat → j < r.width.toNat →
      Memory.get? ((interpolate value k r s).grid (fltGrid k)) (fltAddr r i j) = some (value i j)) ∧
    ∀ a, r.width.toNat * r.height.toNat ≤ a →
      Memory.get? ((interpolate value k r s).grid (fltGrid k)) a = Memory.get? (s.grid (fltGrid k)) a := by
  have h := get?_setAll_map (s.grid (fltGrid k)) (unitPositions r) (fun p => fltAddr r p.1 p.2)
    (fun p => value p.1 p.2) fun p hp q hq => fltAddr_inj hp hq
  constructor
  · intro i j hi hj
    simpa [interpolate_eq] using h.1 (i, j) (mem_unitPositions.2 ⟨hi, hj⟩)
  · intro a ha
    have := h.2 a fun p hp he => by
      rw [mem_unitPositions] at hp
      have := rowMajor_lt hp.1 hp.2
      rw [Nat.mul_comm] at ha
      unfold fltAddr at he
      omega
    simpa [interpolate_eq] using this

/-- What the blend does to the reads of `DST`. -/
theorem get?_blendBody {r : OperandRegs} {s : State} (h : geometryLegal s.cfg r = true) :
    (∀ i j, i < r.height.toNat → j < r.width.toNat →
      Memory.get? (blendBody r s).dst (dstAddr s.cfg r i j) = some (s.blended r i j)) ∧
    ∀ a, (∀ i j, i < r.height.toNat → j < r.width.toNat → dstAddr s.cfg r i j ≠ a) →
      Memory.get? (blendBody r s).dst a = Memory.get? s.dst a := by
  have hm := get?_setAll_map s.dst (unitPositions r) (fun p => dstAddr s.cfg r p.1 p.2)
    (fun p => s.blended r p.1 p.2) fun p hp q hq => dstAddr_inj h hp hq
  refine ⟨fun i j hi hj => hm.1 (i, j) (mem_unitPositions.2 ⟨hi, hj⟩), fun a ha => hm.2 a fun p hp => ?_⟩
  rw [mem_unitPositions] at hp
  exact ha p.1 p.2 hp.1 hp.2

/-- All one step can do. -/
theorem step_cases {s t : State} (h : step s = .next t) :
    (∃ i u, nextAction s = .run i ∧ exec i s = .next u ∧ t = u.retire) ∨
    ∃ u, nextAction s = .advance u ∧ t = u.retire := by
  unfold step at h
  cases ha : nextAction s with
  | run i =>
    obtain ⟨u, hu⟩ := exec_next i s
    simp only [ha, hu, retireOutcome, Host.Outcome.next.injEq] at h
    exact .inl ⟨i, u, rfl, hu, h.symm⟩
  | advance u =>
    simp only [ha, Host.Outcome.next.injEq] at h
    exact .inr ⟨u, rfl, h.symm⟩
  | stop f => simp [ha] at h

end Sys2Proof.Machine
end

