-- ==== Sys2Proof/Laws/Bus.lean ====
section
/-! SUPPORT. What the host's port reaches, and what one step does for each kind of boundary event. -/

namespace Sys2Proof.Machine

open Sys2Proof.Config

/-- A register's address reaches the register. -/
@[simp] theorem target_reg (P : Params) (x : Reg) : target P (busAddress x.offset) = .reg x := by
  cases x <;> rfl

/-- The rest of the register space is reserved (R39). -/
theorem target_reserved (P : Params) {a : BitVec 22} (h1 : 19 ≤ a.toNat) (h2 : a.toNat < 2 ^ 18) :
    target P a = .reserved := by
  have h3 : a.toNat / 2 ^ 18 = 0 := by omega
  have h4 : a.toNat % 2 ^ 18 = a.toNat := by omega
  have h5 : registerAt (4 * a.toNat) = none := by
    simp [registerAt, registers, Reg.offset]
    omega
  simp only [target, h3, h4, h5]

/-- A word address by its aperture and the word in it. -/
theorem aperture_split {a k n : Nat} (hn : n < 2 ^ 18) (h : a = k * 2 ^ 18 + n) : a / 2 ^ 18 = k ∧ a % 2 ^ 18 = n := by
  omega

/-- The address of a cell reaches the cell (R78). -/
theorem target_ram (P : Params) (m : Ram) {n : Nat} (hn : n < 2 ^ 18) :
    target P (busAddress (ramBase m + 4 * n)) = .ram m n := by
  have key : ∀ k, ramBase m = k * 2 ^ 20 → k < 12 →
      (busAddress (ramBase m + 4 * n)).toNat / 2 ^ 18 = k ∧ (busAddress (ramBase m + 4 * n)).toNat % 2 ^ 18 = n := by
    intro k hk hk2
    refine aperture_split hn ?_
    simp only [busAddress, BitVec.toNat_ofNat, hk]
    omega
  rcases m with (_ | _) | (_ | _ | _ | _ | _ | _)
  · obtain ⟨h1, h2⟩ := key 1 rfl (by omega)
    simp only [target, h1, h2]
  · obtain ⟨h1, h2⟩ := key 2 rfl (by omega)
    simp only [target, h1, h2]
  · obtain ⟨h1, h2⟩ := key 3 rfl (by omega)
    simp only [target, h1, h2]
  · obtain ⟨h1, h2⟩ := key 4 rfl (by omega)
    simp only [target, h1, h2]
  · obtain ⟨h1, h2⟩ := key 5 rfl (by omega)
    simp only [target, h1, h2]
  · obtain ⟨h1, h2⟩ := key 6 rfl (by omega)
    simp only [target, h1, h2]
  · obtain ⟨h1, h2⟩ := key 7 rfl (by omega)
    simp only [target, h1, h2]
  · obtain ⟨h1, h2⟩ := key 8 rfl (by omega)
    simp only [target, h1, h2]

/-- The apertures of the three read-only memories (R78). -/
theorem target_rom (P : Params) {a : BitVec 22} {n : Nat} (hn : n < 2 ^ 18) :
    (a.toNat = 9 * 2 ^ 18 + n → target P a = .rom ((P.romRecip.getD n 0).setWidth 32)) ∧
    (a.toNat = 10 * 2 ^ 18 + n → target P a = .rom ((P.romXbx.getD n 0).setWidth 32)) ∧
    (a.toNat = 11 * 2 ^ 18 + n → target P a = .rom (romParamsWord P n)) := by
  refine ⟨fun h => ?_, fun h => ?_, fun h => ?_⟩ <;>
  · obtain ⟨h1, h2⟩ := aperture_split hn h
    simp only [target, h1, h2]

/-- Every word address: a register, a reserved word, a cell, a ROM word, or a place outside the block. -/
theorem target_cases (P : Params) (a : BitVec 22) :
    (∃ x : Reg, a.toNat < 19 ∧ target P a = .reg x) ∨ (19 ≤ a.toNat ∧ a.toNat < 2 ^ 18 ∧ target P a = .reserved) ∨
    (2 ^ 18 ≤ a.toNat ∧ a.toNat < 9 * 2 ^ 18 ∧ ∃ m n, n < 2 ^ 18 ∧ target P a = .ram m n) ∨
    (9 * 2 ^ 18 ≤ a.toNat ∧ a.toNat < 12 * 2 ^ 18 ∧ ∃ v, target P a = .rom v) ∨
    (12 * 2 ^ 18 ≤ a.toNat ∧ target P a = .outside) := by
  have ha : a.toNat < 2 ^ 22 := a.isLt
  have hq : a.toNat / 2 ^ 18 < 16 := by omega
  have hn : a.toNat % 2 ^ 18 < 2 ^ 18 := by omega
  by_cases h0 : a.toNat < 19
  · left
    have hall : ∀ b : Fin 19, ∃ x, target P (BitVec.ofNat 22 b.val) = .reg x := by
      intro b
      fin_cases b <;> exact ⟨_, rfl⟩
    obtain ⟨x, hx⟩ := hall ⟨a.toNat, h0⟩
    exact ⟨x, h0, by simpa using hx⟩
  right
  by_cases h1 : a.toNat < 2 ^ 18
  · exact .inl ⟨by omega, h1, target_reserved P (by omega) h1⟩
  right
  unfold target
  generalize hq' : a.toNat / 2 ^ 18 = q at *
  have hb : a.toNat = q * 2 ^ 18 + a.toNat % 2 ^ 18 := by omega
  interval_cases q
  · omega
  all_goals first
    | exact .inl ⟨by omega, by omega, _, _, hn, rfl⟩
    | exact .inr (.inl ⟨by omega, by omega, _, rfl⟩)
    | exact .inr (.inr ⟨by omega, rfl⟩)

/-- A step in which the boundary acts on its own. -/
theorem step_advance {s t : State} (h : nextAction s = .advance t) : step s = .next t.retire := by
  simp [step, h]

/-- A step in which a command acts. -/
theorem step_run {s : State} {i : Instr} (h : nextAction s = .run i) : step s = retireOutcome (exec i s) := by
  simp [step, h]

@[simp] theorem nextAction_read {s : State} {a : BitVec 22} {rest : List HostEvent} (h : s.script = .read a :: rest) :
    nextAction s = hostRead a s := by
  simp [nextAction, h]

@[simp] theorem nextAction_write {s : State} {a : BitVec 22} {v : Word} {rest : List HostEvent}
    (h : s.script = .write a v :: rest) : nextAction s = hostWrite a v s := by
  simp [nextAction, h]

@[simp] theorem nextAction_rst {s : State} {rest : List HostEvent} (h : s.script = .rst :: rest) :
    nextAction s = .advance (hardReset s) := by
  simp [nextAction, h]

/-- The sequencer's turn comes on a grant and when the host has nothing left to do. -/
theorem nextAction_turn {s : State} (h : s.script = [] ∨ ∃ rest, s.script = .grant :: rest) :
    nextAction s = sequencerTurn s := by
  rcases h with h | ⟨rest, h⟩ <;> simp [nextAction, h]

/-- While the block is busy every host write to a place of the block leaves it as it is but for `DROPPED`, and no write to a reserved
offset leaves a trace. -/
theorem hostWrite_busy {s : State} (hb : s.busy = true) (a : BitVec 22) (v : Word) :
    hostWrite a v s =
      match target s.cfg a with
      | .outside => .stop .outsideBlock
      | .reserved => .advance s
      | _ => .advance (dropWrite s) := by
  unfold hostWrite
  split <;> simp_all

/-- A `CMD` write to an idle block is the command's own action, or the refusal of an illegal word. -/
theorem hostWrite_cmd {s : State} (hb : s.pending = none) (w : Word) :
    hostWrite (busAddress 0x0C) w s = writeCmd w s := by
  have h : target s.cfg (busAddress 0x0C) = .reg .cmd := target_reg s.cfg .cmd
  simp [hostWrite, h, State.busy, hb]

/-- A write to another register of an idle block. -/
theorem hostWrite_reg {s : State} (hb : s.pending = none) {x : Reg} (hx : x ≠ .cmd) (v : Word) :
    hostWrite (busAddress x.offset) v s = .advance (writeReg x v s) := by
  cases x <;> first | exact absurd rfl hx | simp [hostWrite, State.busy, hb]

/-- A write to a cell of an idle block. -/
theorem hostWrite_ram {s : State} (hb : s.pending = none) (m : Ram) {n : Nat} (hn : n < 2 ^ 18) (v : Word) :
    hostWrite (busAddress (ramBase m + 4 * n)) v s = .advance (writeRam m n v s) := by
  simp [hostWrite, target_ram s.cfg m hn, State.busy, hb]

/-- A host read changes the port's data and the draw counter only (R81). -/
theorem readRam_frame (m : Ram) (n : Nat) (s : State) :
    readRam m n s = { s with rdata := (readRam m n s).rdata, draws := (readRam m n s).draws } := by
  unfold readRam
  split
  · rfl
  · split
    · split <;> rfl
    · rfl

/-- A cell write through the port changes the cell and nothing else. -/
theorem ramWord_writeRam (s : State) (m : Ram) {n : Nat} (hn : n < ramCells s.cfg m) (v : Word) (m' : Ram) (n' : Nat) :
    ramWord (writeRam m n v s) m' n' =
      if m' = m ∧ n' = n then some (match m with
        | .plane _ => (v.setWidth 16).setWidth 32
        | .grid _ => v)
      else ramWord s m' n' := by
  rcases m with (_ | _) | (_ | _ | _ | _ | _ | _) <;> rcases m' with (_ | _) | (_ | _ | _ | _ | _ | _) <;>
    simp [writeRam, hn, ramWord, State.setPlane, State.plane, State.setGrid, State.grid, get?_set] <;>
    split <;> simp_all

end Sys2Proof.Machine
end

