-- ==== Sys2Proof/Laws/Checks.lean ====
section
/-! SUPPORT. What the checks of a command written to an idle block come to, and what its acceptance does. -/

namespace Sys2Proof.Machine

open Sys2Proof.Config

variable {P : Params} {r : OperandRegs} {i : Instr}

theorem depthLegal_iff :
    depthLegal P r = true ↔ r.bitDepth.toNat ∈ P.depths ∧ (8 < r.bitDepth.toNat → r.hbd = true) := by
  simp only [depthLegal, Bool.and_eq_true, List.contains_iff_mem, Bool.or_eq_true, decide_eq_true_eq]
  refine and_congr_right fun _ => ⟨fun h h8 => h.resolve_left (by omega), fun h => ?_⟩
  by_cases h8 : r.bitDepth.toNat ≤ 8
  · exact .inl h8
  · exact .inr (h (by omega))

theorem radiusLegal_iff {rad : Nat} : radiusLegal P rad = true ↔ rad = 0 ∨ (rad < P.borderH ∧ rad < P.borderV) := by
  simp [radiusLegal]

/-- The check procedure of an operation command, code by code (R251, R259). -/
theorem firstFailure_eq (hi : isOperation i = true) :
    firstFailure i P r =
      if depthLegal P r = false then some .bitDepth
      else if geometryLegal P r = false then some .geometry
      else if checksOf i = geometryChecks then none
      else if paramIdxLegal P r = false then some .paramIdx
      else if slotRadius P r .slot0 = 0 ∧ slotRadius P r .slot1 = 0 then some .bothZero
      else if radiusLegal P (slotRadius P r .slot0) = false ∨ radiusLegal P (slotRadius P r .slot1) = false then some .radius
      else match namedSlot i with
        | some k => if slotRadius P r k = 0 then some .slotInactive else none
        | none => none := by
  have hcases : checksOf i = geometryChecks ∧ namedSlot i = none ∨ checksOf i = paramChecks ∧ namedSlot i = none ∨
      checksOf i = slotChecks ∧ (namedSlot i = some .slot0 ∨ namedSlot i = some .slot1) := by
    cases i with
    | calcAb k => cases k <;> simp [checksOf, namedSlot]
    | calcAbFast k => cases k <;> simp [checksOf, namedSlot]
    | finalFilter k => cases k <;> simp [checksOf, namedSlot]
    | finalFilterFast k => cases k <;> simp [checksOf, namedSlot]
    | _ => first | (simp [isOperation] at hi; done) | simp [checksOf, namedSlot]
  have h0 : (slotRadius P r .slot0 = 0) = ((slotRadius P r .slot0 == 0) = true) := by simp
  have h1 : (slotRadius P r .slot1 = 0) = ((slotRadius P r .slot1 == 0) = true) := by simp
  unfold firstFailure
  rcases hcases with ⟨h, hn⟩ | ⟨h, hn⟩ | ⟨h, hn | hn⟩
  all_goals
    rw [h, hn]
    simp only [geometryChecks, paramChecks, slotChecks, List.find?_cons, List.find?_nil, checkFails, hn, h0, h1]
    generalize (slotRadius P r .slot0 == 0) = z0
    generalize (slotRadius P r .slot1 == 0) = z1
    generalize radiusLegal P (slotRadius P r .slot0) = l0
    generalize radiusLegal P (slotRadius P r .slot1) = l1
    generalize geometryLegal P r = g
    generalize depthLegal P r = d
    generalize paramIdxLegal P r = x
    revert z0 z1 l0 l1 g d x
    decide

/-- A refused operation command on an idle block enters the error state (R262). -/
theorem exec_refused {s : State} {e : ErrCode} (hi : isOperation i = true) (hp : s.pending = none) (he : s.err = false)
    (h : firstFailure i s.cfg s.regs = some e) : exec i s = .next (raiseError e (encode i) s) := by
  rw [exec_operation hi, operation_idle hp]
  simp [accept, he, h]

/-- An operation command that passes its checks on an idle block is held in `PENDING` (R84). -/
theorem exec_accepted {s : State} (hi : isOperation i = true) (hp : s.pending = none) (he : s.err = false)
    (h : firstFailure i s.cfg s.regs = none) :
    exec i s = .next { s with pending := some ⟨encode i, s.regs⟩, done := false } := by
  rw [exec_operation hi, operation_idle hp]
  simp [accept, he, h]

end Sys2Proof.Machine
end

