-- ==== Sys2Proof/Laws/Coefficient.lean ====
section
/-! SUPPORT. The coefficient engine's rounding shift over the natural numbers, and the bounds that the sums of window samples meet
(R172, R173). -/

namespace Sys2Proof.Machine

/-- The unsigned rounding shift as the rules write it: the biased sum wraps, then it is divided (R11, R177). -/
theorem roundShiftU_toNat (x : Word) (k : Nat) : (roundShiftU x k).toNat = (x.toNat + 2 ^ k / 2) % 2 ^ 32 / 2 ^ k := by
  simp [roundShiftU, roundBias, Nat.shiftRight_eq_div_pow]

/-- Samples below `M` have a sum below `n*M` and a sum of squares below `n*M^2` (R172). -/
theorem sums_le (M : Nat) (xs : List Nat) (h : ∀ x ∈ xs, x ≤ M) :
    xs.sum ≤ xs.length * M ∧ (xs.map (· ^ 2)).sum ≤ xs.length * M ^ 2 := by
  induction xs with
  | nil => simp
  | cons x xs ih =>
    obtain ⟨_, _⟩ := ih fun y hy => h y (by simp [hy])
    have := h x (by simp)
    have := Nat.pow_le_pow_left this 2
    simp only [List.sum_cons, List.length_cons, List.map_cons]
    constructor <;> nlinarith

/-- One sample against the others, the step of `sq_sum_le`. -/
theorem two_mul_sum_le (x : Nat) (ys : List Nat) : 2 * x * ys.sum ≤ ys.length * x ^ 2 + (ys.map (· ^ 2)).sum := by
  induction ys with
  | nil => simp
  | cons y ys ih =>
    simp only [List.sum_cons, List.length_cons, List.map_cons]
    nlinarith [two_mul_le_add_sq x y]

/-- `sum1^2 <= n*sum2` (R173, Cauchy-Schwarz). -/
theorem sq_sum_le (xs : List Nat) : xs.sum ^ 2 ≤ xs.length * (xs.map (· ^ 2)).sum := by
  induction xs with
  | nil => simp
  | cons x xs ih =>
    simp only [List.sum_cons, List.length_cons, List.map_cons]
    nlinarith [two_mul_sum_le x xs]

/-- The variance of samples between 0 and `M` is at most that of `j` samples at `M` and the rest at 0, for some `j`; `A` and `B` stand
for the sums of samples already moved. -/
theorem variance_le_two_valued (M N : Int) (hN : 1 ≤ N) (xs : List Nat) (h : ∀ x ∈ xs, (x : Int) ≤ M) :
    ∀ A B : Int, ∃ j : Nat, j ≤ xs.length ∧
      N * (B + ((xs.map (· ^ 2)).sum : Nat)) - (A + (xs.sum : Nat)) ^ 2 ≤ N * (B + j * M ^ 2) - (A + j * M) ^ 2 := by
  induction xs with
  | nil => exact fun A B => ⟨0, le_rfl, by simp⟩
  | cons x xs ih =>
    intro A B
    obtain ⟨j, hj, hle⟩ := ih (fun y hy => h y (by simp [hy])) (A + x) (B + x ^ 2)
    have hx := h x (by simp)
    have h0 : (0 : Int) ≤ x := by positivity
    simp only [List.map_cons, List.sum_cons, List.length_cons]
    push_cast at hle ⊢
    by_cases hc : (N - 1) * M ≤ 2 * (A + j * M)
    · have h1 : (x : Int) * ((N - 1) * x - 2 * (A + j * M)) ≤ 0 := mul_nonpos_of_nonneg_of_nonpos h0 (by nlinarith)
      exact ⟨j, by omega, by nlinarith⟩
    · have h1 : (x : Int) * ((N - 1) * x - 2 * (A + j * M)) ≤ x * ((N - 1) * M - 2 * (A + j * M)) :=
        mul_le_mul_of_nonneg_left (by nlinarith) h0
      have h2 : (x : Int) * ((N - 1) * M - 2 * (A + j * M)) ≤ M * ((N - 1) * M - 2 * (A + j * M)) :=
        mul_le_mul_of_nonneg_right hx (by linarith)
      exact ⟨j + 1, by omega, by push_cast; nlinarith⟩

/-- `n*sum2 - sum1^2 <= floor(n^2/4) * M^2` for `n` samples up to `M` (R173). -/
theorem variance_le {xs : List Nat} {M : Nat} (h : ∀ x ∈ xs, x ≤ M) :
    xs.length * (xs.map (· ^ 2)).sum ≤ xs.sum ^ 2 + xs.length ^ 2 / 4 * M ^ 2 := by
  rcases Nat.eq_zero_or_pos xs.length with h0 | h0
  · simp [h0]
  obtain ⟨j, hj, hle⟩ :=
    variance_le_two_valued M xs.length (by exact_mod_cast h0) xs (fun x hx => by exact_mod_cast h x hx) 0 0
  have hq : j * (xs.length - j) ≤ xs.length ^ 2 / 4 := by
    rw [Nat.le_div_iff_mul_le (by norm_num)]
    obtain ⟨k, hk⟩ := Nat.exists_eq_add_of_le hj
    rw [hk, Nat.add_sub_cancel_left]
    nlinarith [two_mul_le_add_sq j k]
  have hq' := Nat.mul_le_mul_right (M ^ 2) hq
  generalize (xs.map (· ^ 2)).sum = T at hle ⊢
  generalize xs.sum = S at hle ⊢
  zify [hj] at hq' ⊢
  nlinarith

end Sys2Proof.Machine
end

