-- ==== Sys2Proof/Laws/IntegralImage.lean ====
section
/-! SUPPORT. Everything the integral image builder and the box-sum accessor can do: the builder's cells in scan order, the whole of its
effect, and the window sum that four corners of an image give. -/

namespace Sys2Proof.Machine

open Sys2Proof.Config

/-- Induction along a loop over consecutive numbers. -/
theorem foldl_range'_induct {σ : Type} (inv : Nat → σ → Prop) (f : σ → Nat → σ) (a n : Nat) (s : σ) (h0 : inv a s)
    (hstep : ∀ x t, a ≤ x → x < a + n → inv x t → inv (x + 1) (f t x)) :
    inv (a + n) ((List.range' a n).foldl f s) := by
  induction n with
  | zero => simpa using h0
  | succ n ih =>
    rw [List.range'_1_concat, List.foldl_append]
    exact hstep (a + n) _ (by omega) (by omega) (ih fun x t h1 h2 => hstep x t h1 (by omega))

theorem prefixSum_zero_left (f : Nat → Nat → Nat) (x : Nat) : prefixSum f 0 x = 0 := by
  simp [prefixSum]

theorem prefixSum_zero_right (f : Nat → Nat → Nat) (y : Nat) : prefixSum f y 0 = 0 := by
  simp [prefixSum]

/-- The recurrence of R140: the cell below is the cell above plus the row's sum so far. -/
theorem prefixSum_succ (f : Nat → Nat → Nat) (y x : Nat) :
    prefixSum f (y + 1) x = prefixSum f y x + ∑ px ∈ Finset.range x, f y px := by
  simp [prefixSum, Finset.sum_range_succ]

/-- The part of the builder's work done before integral place `(Y, X)` in scan order, seen from the state `s` it began in. -/
structure Built (s : State) (r : OperandRegs) (Y X : Nat) (t : State) : Prop where
  frame : t = { s with gridC := t.gridC, gridD := t.gridD, left1 := t.left1, left2 := t.left2 }
  images : ∀ y x, x ≤ widthExt s.cfg r → (y < Y ∨ y = Y ∧ x < X) →
    Memory.get? t.gridD (iiAddr r y x) = some (BitVec.ofNat 32 (prefixSum (planeSample s r) y x)) ∧
    Memory.get? t.gridC (iiAddr r y x) =
      some (BitVec.ofNat 32 (prefixSum (fun py px => planeSample s r py px ^ 2) y x))
  strip : ∀ y x, widthExt s.cfg r < x → x ≤ widthExt s.cfg r + s.cfg.zpad → (y < Y ∨ y = Y ∧ x < X) →
    Memory.get? t.gridD (iiAddr r y x) = some 0 ∧ Memory.get? t.gridC (iiAddr r y x) = some 0
  outside : ∀ a, (∀ y x, y ≤ heightExt s.cfg r → x ≤ widthExt s.cfg r + s.cfg.zpad → iiAddr r y x ≠ a) →
    Memory.get? t.gridC a = Memory.get? s.gridC a ∧ Memory.get? t.gridD a = Memory.get? s.gridD a

/-- Image places of one row of the footprint have distinct addresses (R25, R73). -/
theorem iiAddr_inj {P : Params} {r : OperandRegs} (h : widthExt P r + 1 + P.zpad ≤ r.bufStride.toNat) {y x y' x' : Nat}
    (hx : x ≤ widthExt P r + P.zpad) (hx' : x' ≤ widthExt P r + P.zpad) :
    iiAddr r y x = iiAddr r y' x' ↔ y = y' ∧ x = x' := by
  constructor
  · exact rowMajor_inj (by omega) (by omega)
  · rintro ⟨rfl, rfl⟩
    rfl

variable {s t : State} {r : OperandRegs} {Y X : Nat}

/-- A row of the footprint is done: the next one begins. -/
theorem Built.nextRow (h : Built s r Y (widthExt s.cfg r + s.cfg.zpad + 1) t) : Built s r (Y + 1) 0 t where
  frame := h.frame
  images := fun y x hx hy => h.images y x hx (by omega)
  strip := fun y x h1 h2 hy => h.strip y x h1 h2 (by omega)
  outside := h.outside

/-- Both cells of a place written: the place joins what is built when the values are right. -/
theorem Built.write (hb : Built s r Y X t) (hs : widthExt s.cfg r + 1 + s.cfg.zpad ≤ r.bufStride.toNat)
    (hY : Y ≤ heightExt s.cfg r) (hX : X ≤ widthExt s.cfg r + s.cfg.zpad) {u : State} {vc vd : Word}
    (hframe : u = { t with gridC := u.gridC, gridD := u.gridD, left1 := u.left1, left2 := u.left2 })
    (hC : u.gridC = Memory.set t.gridC (iiAddr r Y X) vc) (hD : u.gridD = Memory.set t.gridD (iiAddr r Y X) vd)
    (himg : X ≤ widthExt s.cfg r →
      vd = BitVec.ofNat 32 (prefixSum (planeSample s r) Y X) ∧
      vc = BitVec.ofNat 32 (prefixSum (fun py px => planeSample s r py px ^ 2) Y X))
    (hstrip : widthExt s.cfg r < X → vd = 0 ∧ vc = 0) : Built s r Y (X + 1) u where
  frame := by
    rw [hframe, hb.frame]
  images := by
    intro y x hx hy
    rw [hC, hD, get?_set, get?_set]
    by_cases he : y = Y ∧ x = X
    · obtain ⟨rfl, rfl⟩ := he
      simp [himg hx]
    · rw [if_neg, if_neg]
      · exact hb.images y x hx (by omega)
      all_goals
        rw [iiAddr_inj hs (by omega) hX]
        exact he
  strip := by
    intro y x h1 h2 hy
    rw [hC, hD, get?_set, get?_set]
    by_cases he : y = Y ∧ x = X
    · obtain ⟨rfl, rfl⟩ := he
      simp [hstrip h1]
    · rw [if_neg, if_neg]
      · exact hb.strip y x h1 h2 (by omega)
      all_goals
        rw [iiAddr_inj hs (by omega) hX]
        exact he
  outside := by
    intro a ha
    have hne : a ≠ iiAddr r Y X := Ne.symm (ha Y X hY hX)
    rw [hC, hD, get?_set_of_ne _ _ hne, get?_set_of_ne _ _ hne]
    exact hb.outside a ha

/-- A cleared place of the zero row, the zero column or the strip. -/
theorem Built.clear (hb : Built s r Y X t) (hs : widthExt s.cfg r + 1 + s.cfg.zpad ≤ r.bufStride.toNat)
    (hY : Y ≤ heightExt s.cfg r) (hX : X ≤ widthExt s.cfg r + s.cfg.zpad)
    (hz : Y = 0 ∨ X = 0 ∨ widthExt s.cfg r < X) : Built s r Y (X + 1) (clearImageCell (iiAddr r Y X) t) := by
  refine hb.write hs hY hX rfl rfl rfl ?_ fun _ => ⟨rfl, rfl⟩
  intro hXw
  rcases hz with rfl | rfl | h
  · simp [prefixSum_zero_left]
  · simp [prefixSum_zero_right]
  · omega

/-- The left sums of R140 before column `x` of row `y`. -/
def leftSums (s : State) (r : OperandRegs) (y x : Nat) (t : State) : Prop :=
  t.left1 = BitVec.ofNat 32 (∑ px ∈ Finset.range (x - 1), planeSample s r (y - 1) px) ∧
  t.left2 = BitVec.ofNat 32 (∑ px ∈ Finset.range (x - 1), planeSample s r (y - 1) px ^ 2)

theorem Built.cfg (hb : Built s r Y X t) : t.cfg = s.cfg := by
  rw [hb.frame]

theorem Built.sample (hb : Built s r Y X t) (depth : OperandRegs) (a site : Nat) :
    t.sample depth a site = s.sample depth a site := by
  rw [hb.frame]
  rfl

/-- An active column: the left sums grow, and the place is the one above plus them. -/
theorem Built.cell (hb : Built s r Y X t) (hl : leftSums s r Y X t)
    (hs : widthExt s.cfg r + 1 + s.cfg.zpad ≤ r.bufStride.toNat)
    (hY1 : 1 ≤ Y) (hY : Y ≤ heightExt s.cfg r) (hX1 : 1 ≤ X) (hX : X ≤ widthExt s.cfg r) :
    Built s r Y (X + 1) (buildCell r Y t X) ∧ leftSums s r Y (X + 1) (buildCell r Y t X) := by
  obtain ⟨Y, rfl⟩ : ∃ n, Y = n + 1 := ⟨Y - 1, by omega⟩
  obtain ⟨X, rfl⟩ : ∃ n, X = n + 1 := ⟨X - 1, by omega⟩
  have hv : t.sample r (Y * r.srcStride.toNat + X) (iiAddr r (Y + 1) (X + 1)) =
      BitVec.ofNat 32 (planeSample s r Y X) := by
    rw [hb.sample]
    simp [planeSample]
  obtain ⟨hd, hc⟩ := hb.images Y (X + 1) hX (.inl (by omega))
  obtain ⟨hl1, hl2⟩ := hl
  simp only [Nat.add_sub_cancel] at hl1 hl2
  have hleft : leftSums s r (Y + 1) (X + 1 + 1) (buildCell r (Y + 1) t (X + 1)) := by
    constructor
    · simp only [buildCell, hv, hl1, Nat.add_sub_cancel, Finset.sum_range_succ, BitVec.ofNat_add]
    · simp only [buildCell, hv, hl2, Nat.add_sub_cancel, Finset.sum_range_succ, BitVec.ofNat_add, pow_two, BitVec.ofNat_mul]
  refine ⟨hb.write hs hY (by omega) rfl rfl rfl (fun _ => ?_) (fun h => by omega), hleft⟩
  have h1 := hleft.1
  have h2 := hleft.2
  simp only [buildCell, Nat.add_sub_cancel] at h1 h2 ⊢
  rw [h1, h2]
  constructor
  · simp only [State.readGrid, State.grid, hd, prefixSum_succ _ Y, BitVec.ofNat_add]
  · simp only [State.readGrid, State.grid, hc, prefixSum_succ _ Y, BitVec.ofNat_add]

/-- One row of the builder. -/
theorem Built.row (hb : Built s r Y 0 t) (hs : widthExt s.cfg r + 1 + s.cfg.zpad ≤ r.bufStride.toNat)
    (hY1 : 1 ≤ Y) (hY : Y ≤ heightExt s.cfg r) : Built s r (Y + 1) 0 (buildRow r t Y) := by
  have hz := hb.clear hs hY (by omega) (.inr (.inl rfl))
  have hstart : Built s r Y 1 { clearImageCell (iiAddr r Y 0) t with left1 := 0, left2 := 0 } :=
    ⟨by rw [hz.frame], hz.images, hz.strip, hz.outside⟩
  have hfill := foldl_range'_induct (fun x u => Built s r Y x u ∧ leftSums s r Y x u) (buildCell r Y) 1
    (widthExt s.cfg r) _ ⟨hstart, by simp [leftSums]⟩
    fun x u h1 h2 hu => hu.1.cell hu.2 hs hY1 hY h1 (by omega)
  have hstrip := foldl_range'_induct (fun x u => Built s r Y x u)
    (fun u x => clearImageCell (iiAddr r Y x) u) (widthExt s.cfg r + 1) s.cfg.zpad _ (by
      have := hfill.1
      rwa [Nat.add_comm 1] at this)
    fun x u h1 h2 hu => hu.clear hs hY (by omega) (.inr (.inr (by omega)))
  have hend : widthExt s.cfg r + 1 + s.cfg.zpad = widthExt s.cfg r + s.cfg.zpad + 1 := by omega
  rw [hend] at hstrip
  have := hstrip.nextRow
  simp only [buildRow, hb.cfg]
  exact this

/-- The zero row of the builder. -/
theorem built_zeroRow (hs : widthExt s.cfg r + 1 + s.cfg.zpad ≤ r.bufStride.toNat) :
    Built s r 1 0 (buildZeroRow r s) := by
  have h := foldl_range'_induct (fun x u => Built s r 0 x u) (fun u x => clearImageCell (iiAddr r 0 x) u) 0
    (widthExt s.cfg r + s.cfg.zpad + 1) s
    ⟨rfl, fun _ _ _ h => by omega, fun _ _ _ _ h => by omega, fun _ _ => ⟨rfl, rfl⟩⟩
    fun x u h1 h2 hu => hu.clear hs (by omega) (by omega) (.inl rfl)
  rw [Nat.zero_add, ← List.range_eq_range'] at h
  exact h.nextRow

/-- Everything the builder does: all rows built, and the draw counter moved on. -/
theorem built_images (hs : widthExt s.cfg r + 1 + s.cfg.zpad ≤ r.bufStride.toNat) :
    ∃ u, Built s r (heightExt s.cfg r + 1) 0 u ∧ buildImages r s = u.nextDraws := by
  have h := foldl_range'_induct (fun y u => Built s r y 0 u) (buildRow r) 1 (heightExt s.cfg r) (buildZeroRow r s)
    (built_zeroRow hs) fun y u h1 h2 hu => hu.row hs h1 (by omega)
  rw [Nat.add_comm 1] at h
  exact ⟨_, h, rfl⟩

/-- What the builder leaves, whatever the configuration: it changes the two images, the left sums and the draw counter only. -/
theorem buildImages_frame (r : OperandRegs) (s : State) :
    buildImages r s =
      { s with gridC := (buildImages r s).gridC, gridD := (buildImages r s).gridD, left1 := (buildImages r s).left1,
               left2 := (buildImages r s).left2, draws := s.draws + 1 } := by
  have step : ∀ {α : Type} (f : State → α → State),
      (∀ t x, f t x = { t with gridC := (f t x).gridC, gridD := (f t x).gridD, left1 := (f t x).left1, left2 := (f t x).left2 }) →
      ∀ (l : List α) (t : State), l.foldl f t =
        { t with gridC := (l.foldl f t).gridC, gridD := (l.foldl f t).gridD, left1 := (l.foldl f t).left1,
                 left2 := (l.foldl f t).left2 } := by
    intro α f hf l
    induction l with
    | nil => intro t; rfl
    | cons x l ih =>
      intro t
      have hu := ih (f t x)
      have hx := hf t x
      rw [List.foldl_cons]
      generalize l.foldl f (f t x) = u at *
      generalize f t x = v at *
      rw [hu, hx]
  have hclear : ∀ (y : Nat) (t : State) (x : Nat), clearImageCell (iiAddr r y x) t =
      { t with gridC := (clearImageCell (iiAddr r y x) t).gridC, gridD := (clearImageCell (iiAddr r y x) t).gridD,
               left1 := (clearImageCell (iiAddr r y x) t).left1, left2 := (clearImageCell (iiAddr r y x) t).left2 } :=
    fun _ _ _ => rfl
  have hrow : ∀ (t : State) (y : Nat), buildRow r t y =
      { t with gridC := (buildRow r t y).gridC, gridD := (buildRow r t y).gridD, left1 := (buildRow r t y).left1,
               left2 := (buildRow r t y).left2 } := by
    intro t y
    unfold buildRow
    simp only
    rw [step _ (hclear y), step (buildCell r y) fun _ _ => rfl]
    rfl
  unfold buildImages
  rw [step _ hrow]
  unfold buildZeroRow
  rw [step _ (hclear 0)]
  rfl

/-- The inclusion-exclusion of R148 over natural numbers: the two corners with a plus against the two with a minus. -/
theorem prefixSum_corners (f : Nat → Nat → Nat) (y x h w : Nat) :
    prefixSum f (y + h) (x + w) + prefixSum f y x =
      prefixSum f (y + h) x + prefixSum f y (x + w) + ∑ a ∈ Finset.range h, ∑ b ∈ Finset.range w, f (y + a) (x + b) := by
  have hrow : ∀ n, ∑ px ∈ Finset.range (x + w), f n px =
      ∑ px ∈ Finset.range x, f n px + ∑ b ∈ Finset.range w, f n (x + b) :=
    fun n => Finset.sum_range_add _ _ _
  simp only [prefixSum, Finset.sum_range_add _ y h, hrow, Finset.sum_add_distrib]
  omega

/-- The four corners of an in-contract query on an image give the window sum modulo 2^32 (R148, R164). -/
theorem boxSum_of_images {f : Nat → Nat → Nat} {g : Grid} {site : Nat} {i j : Int} {rad : Nat}
    (himg : ∀ y x, y ≤ heightExt s.cfg r → x ≤ widthExt s.cfg r →
      Memory.get? (s.grid g) (iiAddr r y x) = some (BitVec.ofNat 32 (prefixSum f y x)))
    (hq : inContract s.cfg r i j rad = true) :
    s.boxSum r g site i j rad = BitVec.ofNat 32 (windowSum s.cfg f i j rad) := by
  simp only [inContract, Bool.and_eq_true, decide_eq_true_eq] at hq
  obtain ⟨⟨⟨h1, h2⟩, h3⟩, h4⟩ := hq
  obtain ⟨y, hy⟩ : ∃ y : Nat, (y : Int) = i - rad + s.cfg.borderV := ⟨(i - rad + s.cfg.borderV).toNat, by omega⟩
  obtain ⟨x, hx⟩ : ∃ x : Nat, (x : Int) = j - rad + s.cfg.borderH := ⟨(j - rad + s.cfg.borderH).toNat, by omega⟩
  have hyb : y + (2 * rad + 1) ≤ heightExt s.cfg r := by
    unfold heightExt
    omega
  have hxb : x + (2 * rad + 1) ≤ widthExt s.cfg r := by
    unfold widthExt
    omega
  have read : ∀ (i' j' : Int) (y' x' : Nat), i' + s.cfg.borderV + 1 = y' → j' + s.cfg.borderH + 1 = x' →
      y' ≤ heightExt s.cfg r → x' ≤ widthExt s.cfg r → s.at r g site i' j' = BitVec.ofNat 32 (prefixSum f y' x') := by
    intro i' j' y' x' hi hj hy' hx'
    have ha : posAddr s.cfg r i' j' = iiAddr r y' x' := by
      rw [posAddr_eq (by omega) (by omega)]
      congr 1 <;> omega
    simp only [State.at, State.readGrid, ha, himg y' x' hy' hx']
  have key := prefixSum_corners f y x (2 * rad + 1) (2 * rad + 1)
  have hw : windowSum s.cfg f i j rad =
      ∑ a ∈ Finset.range (2 * rad + 1), ∑ b ∈ Finset.range (2 * rad + 1), f (y + a) (x + b) := by
    unfold windowSum
    rw [show (i - rad + s.cfg.borderV).toNat = y by omega, show (j - rad + s.cfg.borderH).toNat = x by omega]
  rw [← hw] at key
  simp only [State.boxSum]
  rw [read _ _ (y + (2 * rad + 1)) (x + (2 * rad + 1)) (by push_cast; omega) (by push_cast; omega) hyb hxb,
    read _ _ (y + (2 * rad + 1)) x (by push_cast; omega) (by omega) hyb (by omega),
    read _ _ y (x + (2 * rad + 1)) (by omega) (by push_cast; omega) (by omega) hxb,
    read _ _ y x (by omega) (by omega) (by omega) (by omega)]
  have key' := congrArg (BitVec.ofNat 32) key
  simp only [BitVec.ofNat_add] at key'
  generalize BitVec.ofNat 32 (prefixSum f (y + (2 * rad + 1)) (x + (2 * rad + 1))) = br at *
  generalize BitVec.ofNat 32 (prefixSum f (y + (2 * rad + 1)) x) = bl at *
  generalize BitVec.ofNat 32 (prefixSum f y (x + (2 * rad + 1))) = tr at *
  generalize BitVec.ofNat 32 (prefixSum f y x) = tl at *
  generalize BitVec.ofNat 32 (windowSum s.cfg f i j rad) = w at *
  linear_combination key'

end Sys2Proof.Machine
end

