-- ==== Sys2Proof/Laws/PerInstr.lean ====
section
/-! SUPPORT. A statement about every command, constructor by constructor: the reserved field `rsv` of its word is 0 (R111, R115). -/

namespace Sys2Proof.Laws.ReservedFieldZero

/-- The field `rsv`, bits [23:8], of the command's word is 0. -/
@[reducible] def Statement (i : Instr) : Prop := (encode i).extractLsb' 8 16 = 0

theorem nop : Statement .nop := by
  decide

theorem buildII : Statement .buildII := by
  decide

theorem boxsum (ch : Channel) (r : Nat) : Statement (.boxsum ch r) := by
  have key : ∀ (c : Channel) (q : Fin 16), Statement (.boxsum c q.val) := by
    intro c q
    cases c <;> revert q <;> decide
  have h := key ch ⟨r % 16, Nat.mod_lt _ (by omega)⟩
  simpa [Statement, encode] using h

theorem calcAb (k : Slot) : Statement (.calcAb k) := by
  cases k <;> decide

theorem calcAbFast (k : Slot) : Statement (.calcAbFast k) := by
  cases k <;> decide

theorem finalFilter (k : Slot) : Statement (.finalFilter k) := by
  cases k <;> decide

theorem finalFilterFast (k : Slot) : Statement (.finalFilterFast k) := by
  cases k <;> decide

theorem blend : Statement .blend := by
  decide

theorem restore : Statement .restore := by
  decide

theorem apply : Statement .apply := by
  decide

theorem clr : Statement .clr := by
  decide

theorem srst : Statement .srst := by
  decide

end Sys2Proof.Laws.ReservedFieldZero
end

