-- ==== Sys2Proof/Tests/Slice0.lean ====
section
/-! SUPPORT. Tests: expected values from spec 95_test_vectors.md and 30_encoding.md, and one witness for every statement with hypotheses. -/

namespace Sys2Proof.Tests

set_option Elab.async false

open Sys2Proof.Config Sys2Proof.Machine

/-! States -/

/-- The configuration of V1 and P2 (95_test_vectors.md sections 3 and 8). -/
def rampRegs : OperandRegs where
  width := 2
  height := 2
  srcStride := 8
  bufStride := 17
  bitDepth := 8
  hbd := false
  paramIdx := 0
  xq0 := 20
  xq1 := 60
  qx := 0
  qy := 0

/-- The plane 1..64 of V1 and P2 on the record `TV`. -/
def ramp : State :=
  { State.reset with
    regs := rampRegs
    src := (List.range 64).map fun a => (a, BitVec.ofNat 16 (a + 1)) }

/-- The plane with its integral images built. -/
def built : State := buildImages rampRegs ramp

/-- A small legal record: borders of 2, five parameter sets (both slots, slot 1 only, slot 0 only, none, a radius of 2). -/
def smallRecord : Params :=
  { testRecord with
    borderH := 2
    borderV := 2
    zpad := 3
    wMax := 4
    hMax := 4
    srcCells := 128
    dstCells := 128
    bufCells := 256
    fltCells := 16
    depths := [8, 10]
    romRecip := testRecip.take 9
    romParams := [⟨1, 1, 3236, 3236⟩, ⟨0, 1, -1, 3236⟩, ⟨1, 0, 3236, -1⟩, ⟨0, 0, -1, -1⟩, ⟨2, 1, 140, 3236⟩] }

/-- One pixel with its border. -/
def smallRegs : OperandRegs :=
  { OperandRegs.reset with
    width := 1
    height := 1
    srcStride := 5
    bufStride := 9
    bitDepth := 8 }

/-- The plane 1..25 around that pixel. -/
def small : State :=
  { State.reset with
    cfg := smallRecord
    regs := smallRegs
    src := (List.range 25).map fun a => (a, BitVec.ofNat 16 (a + 1)) }

/-- The small plane's images. -/
def smallBuilt : State := buildImages smallRegs small

/-- The small state in the error state. -/
def smallErr : State := { small with err := true, errCode := 1, errCmd := 0x0A000000 }

/-- A state with a command pending on its own registers. -/
def busyWith (i : Instr) (s : State) : State := s.withPending i s.regs

/-- A state with one boundary event next. -/
def before (e : HostEvent) (s : State) : State := { s with script := [e] }

/-- What a function says of the next state, none when there is no next state. -/
def after {α : Type} (o : Host.Outcome State Fault Refusal) (f : State → α) : Option α :=
  match o with
  | .next t => some (f t)
  | _ => none

/-- The cells of a memory at some addresses. -/
def cells {w : Nat} (m : Memory w) (l : List Nat) : List (Option (BitVec w)) := l.map (Memory.get? m)

/-! Well-formedness and decoding -/

/-- R113: the box radius has four bits. -/
theorem test_wellFormed_radius : Instr.wellFormed (.boxsum .sums 16) = false ∧ Instr.wellFormed (.boxsum .squares 15) = true := by
  decide

/-- 95_test_vectors.md section 2, the legal words without operands. -/
theorem test_decode_plain :
    [0x00000000, 0x01000000, 0x07000000, 0x08000000, 0x09000000, 0xFE000000, 0xFF000000].map (decode ·) =
      [some .nop, some .buildII, some .blend, some .restore, some .apply, some .clr, some .srst] := by
  decide

/-- 95_test_vectors.md section 2, forms `Q` and `K`. -/
theorem test_decode_operands :
    [0x02000000, 0x02000010, 0x02000021, 0x020000F1, 0x03000000, 0x03000001, 0x04000000, 0x04000001, 0x05000000, 0x05000001,
      0x06000000, 0x06000001].map (decode ·) =
      [some (.boxsum .sums 0), some (.boxsum .sums 1), some (.boxsum .squares 2), some (.boxsum .squares 15),
        some (.calcAb .slot0), some (.calcAb .slot1), some (.calcAbFast .slot0), some (.calcAbFast .slot1),
        some (.finalFilter .slot0), some (.finalFilter .slot1), some (.finalFilterFast .slot0), some (.finalFilterFast .slot1)] := by
  decide

/-- 95_test_vectors.md section 2, the illegal words. -/
theorem test_decode_illegal :
    [0x02000002, 0x02000008, 0x03000002, 0x06000080, 0x00000001, 0x07000001, 0xFE000001, 0x08000100, 0x01800000, 0x0A000000,
      0x7F000000, 0xFD000000].map (decode ·) = List.replicate 12 none := by
  decide

/-- The table's numbering of bits, and the write that runs a command first after reset. -/
theorem test_fetch :
    decodeTableWord 32 0x02000021 = some (.boxsum .squares 2) ∧
    after (step (State.reset.withFetchWord 32 0)) State.statusWord = some 2 := by
  decide

/-! The arithmetic of the stages -/

/-- F1, F2, F5, F7, F8, F10 of 95_test_vectors.md section 5. -/
theorem test_coefficients :
    coefficients testRecord 8 1 3236 252 7446 = (235, 588) ∧ coefficients testRecord 8 2 140 700 22850 = (235, 589) ∧
    coefficients testRecord 8 1 3236 1275 325125 = (256, 0) ∧ coefficients testRecord 10 1 3236 1008 119136 = (235, 2351) ∧
    coefficients testRecord 10 1 3236 4626 2377764 = (1, 131038) ∧
    coefficients testRecord 12 2 140 102375 419225625 = (128, 524672) := by
  decide +kernel

/-- F6: the index rounds at p = 3744 and 3745; F11: the intercept's product wraps. -/
theorem test_index_boundary :
    tableIndex testRecord 3744 140 = 0 ∧ tableIndex testRecord 3745 140 = 1 ∧ intercept testRecord 25 0 102375 = 768 := by
  decide +kernel

/-- R173: the printed values of `pmax`. R47: they bound the strength of every active slot, also of a radius beyond the border. -/
theorem test_strength_bound :
    noiseBound 8 9 = 1300500 ∧ noiseBound 8 25 = 10143900 ∧ noiseBound 12 9 = 1312388 ∧ noiseBound 12 25 = 10225035 ∧
    testRecord.paramsLegal ∧ ¬ testRecord.strengthLegal 9 0xFFFFFFFF ∧ testRecord.strengthLegal 0 0xFFFFFFFF := by
  decide +kernel

/-- The neighbourhood of K1. -/
def neighbourhood (i j : Int) : Word := BitVec.ofInt 32 (3 * (i + 1) + (j + 1) + 1)

/-- K1 and K3 of 95_test_vectors.md section 6. -/
theorem test_kernels :
    kernelPrecise neighbourhood 0 0 = 160 ∧ kernelEven neighbourhood 0 0 = 160 ∧ kernelOdd neighbourhood 0 0 = 80 ∧
    combine testRecord nb 160 1600 100 = 34 ∧ combine testRecord nb1 80 800 100 = 34 ∧
    combine testRecord nb 0 0xFFFFFE00 0 = 0xFFFFFFFF := by
  decide +kernel

/-- B1, B2, B3, B5b, B6, B8 of 95_test_vectors.md section 7. -/
theorem test_blend :
    clampSample 8 (blendWord testRecord 0 (some (100, -50)) none) = 0 ∧
    clampSample 8 (blendWord testRecord 255 none (some (256, 4200))) = 255 ∧
    clampSample 8 (blendWord testRecord 10 (some (1, 1184)) none) = 11 ∧
    blendWord testRecord 0 (some (1, -1025)) none = -1 ∧
    clampSample 10 (blendWord testRecord 1023 (some (-96, 16668)) (some (224, 16468))) = 1020 ∧
    clampSample 8 (blendWord testRecord 100 (some (0x7FFFFFFF, 1602)) none) = 100 := by
  decide +kernel

/-! One step of each command on the ramp of V1 and P2 -/

/-- V1: the last cells of the two images, and cells of their strip. -/
theorem test_buildII :
    after (exec .buildII (busyWith .buildII ramp)) (fun t =>
      (cells t.gridD [0, 18, 90, 144, 145, 152, 153], cells t.gridC [90, 144, 152])) =
    some ([some 0, some 1, some 475, some 2080, some 0, some 0, none], [some 12275, some 89440, some 0]) := by
  decide +kernel

/-- V2: `D` at (0,0) with radius 1, `C` at (0,0) with radius 2. -/
theorem test_boxsum :
    after (exec (.boxsum .sums 1) (busyWith (.boxsum .sums 1) built)) State.result = some 252 ∧
    after (exec (.boxsum .squares 2) (busyWith (.boxsum .squares 2) built)) State.result = some 22850 := by
  decide +kernel

/-- V2: a query at negative coordinates; the query point reads back sign-extended. -/
theorem test_boxsum_corner :
    let s : State := { built with regs := { rampRegs with qx := 0xFFFF, qy := 0xFFFF } }
    after (exec (.boxsum .sums 2) (busyWith (.boxsum .sums 2) s)) State.result = some 475 ∧ readReg s .qy = 0xFFFFFFFF := by
  decide +kernel

/-- P2: slot 1's grid at its first and last rows. -/
theorem test_calcAb :
    after (exec (.calcAb .slot1) (busyWith (.calcAb .slot1) built)) (fun t =>
      (cells t.gridA [54, 108, 58], cells t.gridB [54, 57, 72, 108])) =
    some ([some 235, some 235, none], [some 399, some 462, some 588, some 966]) := by
  decide +kernel

/-- P2, P6: slot 0's fast grid; rows 0 and 2 stay unwritten. -/
theorem test_calcAbFast :
    after (exec (.calcAbFast .slot0) (busyWith (.calcAbFast .slot0) built)) (fun t =>
      (cells t.gridA [54, 71, 88, 105], cells t.gridB [54, 57, 71, 88, 91])) =
    some ([some 235, none, some 235, none], [some 399, some 462, none, some 736, some 799]) := by
  decide +kernel

/-- P2: slot 1's candidates. -/
theorem test_finalFilter :
    after (exec (.finalFilter .slot1) (busyWith (.finalFilter .slot1) (calcAbBody .slot1 rampRegs built))) (fun t =>
      cells t.flt1 [0, 1, 2, 3, 4]) = some [some 448, some 464, some 576, some 592, none] := by
  decide +kernel

/-- P2: slot 0's candidates by the fast kernels. -/
theorem test_finalFilterFast :
    after (exec (.finalFilterFast .slot0) (busyWith (.finalFilterFast .slot0) (calcAbFastBody .slot0 rampRegs built))) (fun t =>
      cells t.flt0 [0, 1, 2, 3, 4]) = some [some 448, some 464, some 576, some 592, none] := by
  decide +kernel

/-- B9: candidates equal to the scaled sample leave the sample. -/
theorem test_blend_step :
    let s : State := { ramp with flt0 := [(0, 448), (1, 464), (2, 576), (3, 592)], flt1 := [(0, 448), (1, 464), (2, 576), (3, 592)] }
    after (exec .blend (busyWith .blend s)) (fun t => cells t.dst [26, 27, 28, 35, 36]) =
      some [none, some 28, some 29, some 36, some 37] := by
  decide +kernel

/-- P2 up to `BLEND`. -/
theorem test_restore :
    after (exec .restore (busyWith .restore ramp)) (fun t =>
      (cells t.flt0 [0, 3], cells t.flt1 [0, 3], cells t.gridB [71], t.statusWord)) =
    some ([some 448, some 592], [some 448, some 592], [some 567], 2) := by
  decide +kernel

/-- P2. -/
theorem test_apply :
    after (exec .apply (busyWith .apply ramp)) (fun t => (cells t.dst [27, 28, 35, 36], t.statusWord)) =
      some ([some 28, some 29, some 36, some 37], 2) := by
  decide +kernel

/-- E1: an illegal word, a blocked command, a second illegal word, `CLR`, `NOP`. -/
theorem test_error_program :
    let write (w : Word) : HostEvent := .write (busAddress 0x0C) w
    let run (n : Nat) := after (Host.Core.run Sys2Proof.core n { State.reset with
      script := [write 0x0A000000, write 0x01000000, write 0xFE000001, write 0xFE000000, write 0] })
      (fun t => (t.statusWord, t.errCmd))
    [run 1, run 2, run 3, run 4, run 5] =
      [some (0x104, 0x0A000000), some (0x10C, 0x0A000000), some (0x10C, 0xFE000001), some (0, 0), some (2, 0)] := by
  decide +kernel

/-- `SRST` keeps the memories and clears the registers. -/
theorem test_srst :
    after (exec .srst { built with err := true, errCode := 3, result := 5 }) (fun t =>
      (t.regs == OperandRegs.reset, t.result, t.statusWord, t.src == ramp.src, t.gridD == built.gridD)) =
      some (true, 0, 0, true, true) := by
  decide +kernel

/-- `CAP0`, `CAP1` and `CAP2` of the record `TV` (95_test_vectors.md, head). -/
theorem test_capabilities :
    readReg State.reset .cap0 = 0x000F0833 ∧ readReg State.reset .cap1 = 0x1514C748 ∧
    readReg State.reset .cap2 = 0x00400040 := by
  decide +kernel

/-! Witnesses: concrete states and operands that meet a statement's hypotheses -/

theorem test_witness_IllegalWordRefused :
    let s := before (.write (busAddress 0x0C) 0x0A000000) small
    s.pending = none ∧ s.err = false ∧ decode 0x0A000000 = none ∧
      after (step s) (fun t => (t.statusWord, t.errCmd)) = some (0x104, 0x0A000000) := by
  decide +kernel

theorem test_witness_StepRunsWrittenCommand :
    let s := before (.write (busAddress 0x0C) 0x09000000) small
    s.pending = none ∧ s.script = [.write (busAddress 0x0C) 0x09000000] ∧ decode 0x09000000 = some .apply := by
  decide +kernel

theorem test_witness_StepRunsPendingCommand :
    let s := busyWith .apply small
    s.pending = some ⟨0x09000000, smallRegs⟩ ∧ decode 0x09000000 = some .apply ∧ isOperation .apply = true ∧ s.script = [] ∧
      (before .grant s).script = [.grant] := by
  decide +kernel

theorem test_witness_CommandRunsInTwoSteps :
    isOperation (.boxsum .squares 15) = true ∧ Instr.wellFormed (.boxsum .squares 15) = true ∧ small.pending = none ∧
      small.err = false ∧ firstFailure (.boxsum .squares 15) small.cfg small.regs = none := by
  decide +kernel

theorem test_witness_PendingCommandCompletes :
    (busyWith .apply small).sound ∧ (busyWith .apply small).busy = true ∧ (busyWith .apply small).script = [] := by
  decide +kernel

/-- One configuration for each clause: codes 2 to 7 (E2 to E5 of 95_test_vectors.md), and the two kinds of acceptance. -/
theorem test_witness_LowestFailingCheckReported :
    let code (i : Instr) (r : OperandRegs) := after (exec i { small with regs := r }) (fun t => (t.errCode.toNat, t.busy))
    [code .apply { smallRegs with bitDepth := 9, paramIdx := 200, width := 0 },
      code .apply { smallRegs with bitDepth := 10 },
      code .apply { smallRegs with width := 0, paramIdx := 200 },
      code .buildII { smallRegs with bufStride := 8 },
      code .buildII { smallRegs with paramIdx := 200 },
      code .blend { smallRegs with paramIdx := 5 },
      code .blend { smallRegs with paramIdx := 3 },
      code (.calcAb .slot1) { smallRegs with paramIdx := 4 },
      code (.calcAb .slot0) { smallRegs with paramIdx := 1 },
      code (.finalFilterFast .slot1) { smallRegs with paramIdx := 2 },
      code (.calcAb .slot1) { smallRegs with paramIdx := 1, bitDepth := 8, hbd := true },
      code .apply { smallRegs with bitDepth := 10, hbd := true }] =
    [some (2, false), some (2, false), some (3, false), some (3, false), some (0, true), some (4, false), some (5, false),
      some (6, false), some (7, false), some (7, false), some (0, true), some (0, true)] := by
  decide +kernel

theorem test_witness_ErrorEntryChangesNothingElse :
    let s := before (.write (busAddress 0x0C) 0x09000000) { small with regs := { smallRegs with paramIdx := 4 } }
    s.pending = none ∧ s.err = false ∧ decode 0x09000000 = some .apply ∧ firstFailure .apply s.cfg s.regs = some .radius ∧
      smallErr.pending = none ∧ opcodeField 0xFE000001 = 0xFE ∧ decode 0xFE000001 = none := by
  decide +kernel

/-- One word for each clause. -/
theorem test_witness_ErrorStateBlocksCommands :
    smallErr.pending = none ∧ smallErr.err = true ∧
    (opcodeField 0x09000000 ≠ 0xFE ∧ opcodeField 0x09000000 ≠ 0xFF) ∧ opcodeField 0xFE000000 = 0xFE ∧
    opcodeField 0xFF000000 = 0xFF ∧ opcodeField 0xFE000001 = 0xFE ∧ decode 0xFE000001 = none ∧
    [0x09000000, 0xFE000000, 0xFF000000, 0xFE000001].map (fun w =>
      after (step (before (.write (busAddress 0x0C) w) smallErr)) State.statusWord) =
      [some 0x10C, some 0, some 0, some 0x104] := by
  decide +kernel

theorem test_witness_OnlyClearLeavesErrorState :
    ∃ t, smallErr.err = true ∧ step (before (.write (busAddress 0x0C) 0xFE000000) smallErr) = .next t ∧ t.err = false :=
  ⟨_, rfl, rfl, rfl⟩

/-- The first and the last register, the first and the last word of the apertures. -/
theorem test_witness_BusyWriteDropped :
    let s := busyWith .apply small
    s.pending ≠ none ∧
    (∀ a ∈ ([0, 3, 18, 2 ^ 18, 9 * 2 ^ 18, 12 * 2 ^ 18 - 1] : List Nat),
      ((BitVec.ofNat 22 a).toNat ≤ 18 ∨ 2 ^ 18 ≤ (BitVec.ofNat 22 a).toNat) ∧ (BitVec.ofNat 22 a).toNat < 12 * 2 ^ 18 ∧
      after (step (before (.write (BitVec.ofNat 22 a) 7) s)) (fun t => (t.dropped, t.busy, t.src == s.src)) =
        some (true, true, true)) := by
  decide +kernel

/-- Both clauses: an idle block, and a busy one or one in the error state. -/
theorem test_witness_NopSetsDone :
    (small.pending = none ∧ small.err = false) ∧ (busyWith .apply small).pending ≠ none ∧ smallErr.err = true ∧
    after (exec .nop small) State.statusWord = some 2 ∧
    after (exec .nop (busyWith .apply small)) State.statusWord = some 9 ∧
    after (exec .nop smallErr) State.statusWord = some 0x10C := by
  decide +kernel

theorem test_witness_ClrClearsFlags : smallErr.pending = none ∧ after (exec .clr smallErr) State.statusWord = some 0 := by
  decide +kernel

/-- Both clauses. -/
theorem test_witness_SrstResetsRegisters :
    smallErr.pending = none ∧ (busyWith .apply small).pending ≠ none ∧
    after (exec .srst (busyWith .apply small)) State.statusWord = some 9 := by
  decide +kernel

theorem test_witness_ResetInputResetsBlock :
    (before .rst (busyWith .apply small)).script = [.rst] ∧
    after (step (before .rst (busyWith .apply small))) (fun t => (t.busy, t.src, readReg t .width)) = some (false, [], 0) := by
  decide +kernel

/-- Every read-write register, written with all bits set. -/
theorem test_witness_RegisterWriteReadsBack :
    small.pending = none ∧
    [Reg.irqEn, .width, .height, .srcStride, .bufStride, .depth, .paramIdx, .xq0, .xq1, .qx, .qy].map (fun x =>
      after (Host.Core.run Sys2Proof.core 2 { small with
        script := [.write (busAddress x.offset) 0xFFFFFFFF, .read (busAddress x.offset)] }) State.rdata) =
    [some 3, some 0xFFFF, some 0xFFFF, some 0xFFFF, some 0xFFFF, some 0x11F, some 0xFF, some 0xFFFFFFFF, some 0xFFFFFFFF,
      some 0xFFFFFFFF, some 0xFFFFFFFF] := by
  decide +kernel

/-- Each clause at its boundaries: read-only registers, reserved offsets, ROM apertures, a cell beyond `SRC`. -/
theorem test_witness_DiscardedWriteChangesNothing :
    small.pending = none ∧
    [0, 18, 19, 2 ^ 18 - 1, 9 * 2 ^ 18, 12 * 2 ^ 18 - 1, 2 ^ 18 + 128].map (fun a =>
      after (step (before (.write (BitVec.ofNat 22 a) 0xFFFFFFFF) small)) id) = List.replicate 7 (some small) ∧
    busAddress Reg.id.offset = 0 ∧ busAddress Reg.result.offset = 18 ∧
    target small.cfg (BitVec.ofNat 22 (2 ^ 18 + 128)) = .ram (.plane .src) 128 ∧ ramCells small.cfg (.plane .src) ≤ 128 := by
  decide +kernel

/-- The last cell of a plane and of a grid. -/
theorem test_witness_CellWriteReadsBack :
    small.pending = none ∧ 127 < ramCells small.cfg (.plane .dst) ∧ 255 < ramCells small.cfg (.grid .b) ∧
    after (Host.Core.run Sys2Proof.core 2 { small with script := [.write (busAddress (ramBase (.plane .dst) + 4 * 127)) 0x12345678,
      .read (busAddress (ramBase (.plane .dst) + 4 * 127))] }) State.rdata = some 0x5678 ∧
    after (Host.Core.run Sys2Proof.core 2 { small with script := [.write (busAddress (ramBase (.grid .b) + 4 * 255)) 0x12345678,
      .read (busAddress (ramBase (.grid .b) + 4 * 255))] }) State.rdata = some 0x12345678 := by
  decide +kernel

theorem test_witness_ReadHasNoSideEffect :
    (before (.read 0x2FFFFF) small).script = [.read 0x2FFFFF] ∧ (0x2FFFFF : BitVec 22).toNat < 12 * 2 ^ 18 := by
  decide +kernel

theorem test_witness_BusyRamReadIsFree :
    let s := before (.read (busAddress (ramBase (.plane .src)))) (busyWith .apply small)
    s.pending ≠ none ∧ target s.cfg (busAddress (ramBase (.plane .src))) = .ram (.plane .src) 0 ∧
    target s.cfg (busAddress (ramBase (.grid .flt1) + 4 * 15)) = .ram (.grid .flt1) 15 := by
  decide +kernel

/-- Each clause at its boundaries: a register, reserved offsets, the last entry and the word after it of each read-only memory. -/
theorem test_witness_PortReadReturnsRegisterOrRom :
    [3, 8, 19, 2 ^ 18 - 1, 9 * 2 ^ 18 + 8, 9 * 2 ^ 18 + 9, 10 * 2 ^ 18 + 255, 10 * 2 ^ 18 + 256, 11 * 2 ^ 18 + 16, 11 * 2 ^ 18 + 17,
      11 * 2 ^ 18 + 18, 11 * 2 ^ 18 + 19, 11 * 2 ^ 18 + 20].map (fun a =>
      after (step (before (.read (BitVec.ofNat 22 a)) small)) State.rdata) =
    [some 0, some 1, some 0, some 0, some 455, some 0, some 256, some 0, some 2, some 1, some 140, some 3236, some 0] := by
  decide +kernel

/-- Both clauses: the last sample of the plane, and the word after the memory's last cell. -/
theorem test_witness_IdleRamReadReturnsCell :
    small.pending = none ∧ 24 < ramCells small.cfg (.plane .src) ∧ (Memory.get? small.src 24).map (BitVec.setWidth 32) = some 25 ∧
    ramCells small.cfg (.plane .src) ≤ 128 ∧
    [24, 128].map (fun n => after (step (before (.read (busAddress (ramBase (.plane .src) + 4 * n))) small)) State.rdata) =
      [some 25, some 0] := by
  decide +kernel

theorem test_witness_CapabilityWordsDescribeRecord : small.cfg.wf ∧ State.reset.cfg.wf := by
  decide +kernel

/-- One witness for the two statements about `BUILD_II`. -/
theorem test_witness_BuildII :
    (busyWith .buildII small).pending = some ⟨encode .buildII, smallRegs⟩ ∧ geometryLegal small.cfg smallRegs = true := by
  decide +kernel

/-- The four corners of a query of radius 1 on the small plane's images. -/
theorem test_witness_BoxSumFromFourCorners :
    let s := busyWith (.boxsum .sums 1) smallBuilt
    s.pending = some ⟨encode (.boxsum .sums 1), smallRegs⟩ ∧
    (-(s.cfg.borderV : Int) ≤ 0 - 1 ∧ 0 + 1 ≤ (smallRegs.height.toNat : Int) + s.cfg.borderV - 1) ∧
    (-(s.cfg.borderH : Int) ≤ 0 - 1 ∧ 0 + 1 ≤ (smallRegs.width.toNat : Int) + s.cfg.borderH - 1) ∧
    [(1, 1), (1, -2), (-2, 1), (-2, -2)].map (fun p : Int × Int => Memory.get? s.gridD (posAddr s.cfg smallRegs p.1 p.2)) =
      [some 160, some 34, some 10, some 1] ∧
    after (exec (.boxsum .sums 1) s) State.result = some 117 := by
  decide +kernel

theorem holdsImages_withPending {s : State} {i : Instr} {r q : OperandRegs} {f : Nat → Nat → Nat} (h : holdsImages s q f) :
    holdsImages (s.withPending i r) q f := h

/-- Images as the builder leaves them. -/
theorem smallBuilt_images : holdsImages smallBuilt smallRegs (planeSample small smallRegs) := by
  obtain ⟨u, hu, he⟩ := built_images (s := small) (r := smallRegs) (by decide)
  intro y x hy hx
  have hc : smallBuilt.cfg = small.cfg := by
    rw [smallBuilt, buildImages_frame]
  rw [hc] at hy hx
  have h := hu.images y x hx (.inl (by omega))
  rw [smallBuilt, he]
  exact h

theorem test_witness_BoxSumIsWindowSum :
    holdsImages (smallBuilt.withPending (.boxsum .squares 2) smallRegs) smallRegs (planeSample small smallRegs) ∧
      inContract small.cfg smallRegs smallRegs.qy.toInt smallRegs.qx.toInt 2 = true :=
  ⟨holdsImages_withPending smallBuilt_images, by decide +kernel⟩

theorem test_witness_BoxSumOutOfContractIsFree :
    (busyWith (.boxsum .sums 3) small).pending = some ⟨encode (.boxsum .sums 3), smallRegs⟩ ∧
    smallRegs.qy.toInt - (3 : Nat) < -(small.cfg.borderV : Int) := by
  decide +kernel

/-- One witness for the two statements about the estimator's window. -/
theorem test_witness_CalcAb :
    let s := busyWith (.calcAb .slot0) small
    s.pending = some ⟨encode (.calcAb .slot0), smallRegs⟩ ∧ s.cfg.wf ∧ geometryLegal s.cfg smallRegs = true := by
  decide +kernel

/-- Both clauses. -/
theorem test_witness_CalcAbFromWindowSums :
    holdsImages (smallBuilt.withPending (.calcAb .slot1) smallRegs) smallRegs (planeSample small smallRegs) ∧
      holdsImages (smallBuilt.withPending (.calcAbFast .slot0) smallRegs) smallRegs (planeSample small smallRegs) ∧
      small.cfg.wf ∧ firstFailure (.calcAb .slot1) small.cfg smallRegs = none ∧
      firstFailure (.calcAbFast .slot0) small.cfg smallRegs = none :=
  ⟨holdsImages_withPending smallBuilt_images, holdsImages_withPending smallBuilt_images, by decide +kernel⟩

theorem test_witness_EstimatorQueriesInContract :
    smallRecord.wf ∧ radiusLegal smallRecord 1 = true ∧ inContract smallRecord smallRegs (-1) (-1) 1 = true ∧
      inContract smallRecord smallRegs 1 1 1 = true := by
  decide +kernel

/-- The small record with one slope for every index. -/
def flatRecord : Params := { smallRecord with romXbx := List.replicate 256 200 }

theorem flat_xbxLegal : flatRecord.xbxLegal := by
  intro h hh
  obtain rfl : h = 200 := List.eq_of_mem_replicate hh
  decide

theorem flat_recipLegal : flatRecord.recipLegal := by
  have h : (flatRecord.romRecip.all fun e => decide (e.toNat < 2 ^ 15)) = true := by
    decide +kernel
  intro e he
  exact of_decide_eq_true (List.all_eq_true.1 h e he)

/-- The sums of F1. -/
theorem test_witness_CoefficientsExactAtEightBits :
    flatRecord.wf ∧ flatRecord.romLegal ∧ 1 ≤ flatRecord.rMax ∧
    noiseBound 8 9 * (3236 : Word).toNat + 2 ^ (flatRecord.mtableBits - 1) < 2 ^ 32 ∧ 252 ≤ 9 * 255 ∧ 252 ^ 2 ≤ 9 * 7446 ∧
    9 * 7446 - 252 ^ 2 ≤ noiseBound 8 9 :=
  ⟨by decide +kernel, ⟨flat_recipLegal, flat_xbxLegal, by decide +kernel⟩, by decide +kernel⟩

/-- Nine samples at 10 bits, the two extremes and one in between. -/
theorem test_witness_CoefficientsExactAtEveryDepth :
    flatRecord.wf ∧ flatRecord.xbxLegal ∧ flatRecord.strengthLegal 1 3236 ∧ 10 ∈ flatRecord.depths ∧ 1 ≤ flatRecord.rMax ∧
    ([0, 1023, 5, 0, 1023, 0, 0, 1023, 1] : List Nat).length = 9 ∧
    ∀ x ∈ ([0, 1023, 5, 0, 1023, 0, 0, 1023, 1] : List Nat), x ≤ 2 ^ 10 - 1 :=
  ⟨by decide +kernel, flat_xbxLegal, by decide +kernel⟩

theorem test_witness_SlopeWithinRange : flatRecord.wf ∧ flatRecord.xbxLegal :=
  ⟨by decide +kernel, flat_xbxLegal⟩

/-- The sums of F1 at 10 bits, F7. -/
theorem test_witness_HighDepthNoiseMatches :
    9 * 7446 < 2 ^ 32 ∧ 252 ^ 2 ≤ 9 * 7446 ∧ 252 * 2 ^ 2 + 2 ^ 2 < 2 ^ 32 ∧ 7446 * 2 ^ (2 * 2) + 2 ^ (2 * 2) < 2 ^ 32 ∧
    noiseEstimate 10 9 1008 119136 = 3510 := by
  decide +kernel

theorem test_witness_EstimatorOrderIrrelevant :
    small.cfg.wf ∧ geometryLegal small.cfg smallRegs = true ∧ Memory.wf small.gridA ∧ Memory.wf small.gridB ∧
      (preciseWindow smallRegs).reverse.Perm (preciseWindow smallRegs) ∧ (fastWindow smallRegs).reverse.Perm (fastWindow smallRegs) :=
  ⟨by decide +kernel, by decide +kernel, by decide, by decide, List.reverse_perm _, List.reverse_perm _⟩

theorem test_witness_FinalFilterWritesUnit :
    (busyWith (.finalFilter .slot1) small).pending = some ⟨encode (.finalFilter .slot1), smallRegs⟩ := by
  decide

theorem test_witness_FinalFilterFastWritesUnit :
    (busyWith (.finalFilterFast .slot0) small).pending = some ⟨encode (.finalFilterFast .slot0), smallRegs⟩ := by
  decide

/-- Two states that differ in `A` and `B`, and their runs. -/
theorem test_witness_FastPathReadsOnlyEstimatedRows :
    ∃ s' u u' v v' : State, small.cfg.wf ∧ geometryLegal small.cfg smallRegs = true ∧
      s' = { small with gridA := s'.gridA, gridB := s'.gridB } ∧ s'.gridA ≠ small.gridA ∧
      exec (.calcAbFast .slot0) (small.withPending (.calcAbFast .slot0) smallRegs) = .next u ∧
      exec (.calcAbFast .slot0) (s'.withPending (.calcAbFast .slot0) smallRegs) = .next u' ∧
      exec (.finalFilterFast .slot0) (u.withPending (.finalFilterFast .slot0) smallRegs) = .next v ∧
      exec (.finalFilterFast .slot0) (u'.withPending (.finalFilterFast .slot0) smallRegs) = .next v' := by
  obtain ⟨u, hu⟩ := exec_next (.calcAbFast .slot0) (small.withPending (.calcAbFast .slot0) smallRegs)
  obtain ⟨u', hu'⟩ := exec_next (.calcAbFast .slot0)
    (State.withPending { small with gridA := [(30, 5)] } (.calcAbFast .slot0) smallRegs)
  obtain ⟨v, hv⟩ := exec_next (.finalFilterFast .slot0) (u.withPending (.finalFilterFast .slot0) smallRegs)
  obtain ⟨v', hv'⟩ := exec_next (.finalFilterFast .slot0) (u'.withPending (.finalFilterFast .slot0) smallRegs)
  exact ⟨_, u, u', v, v', by decide +kernel, by decide +kernel, rfl, by decide, hu, hu', hv, hv'⟩

/-- One witness for `BlendWritesUnit` and `BlendResultInRange`. -/
theorem test_witness_Blend :
    (busyWith .blend small).pending = some ⟨encode .blend, smallRegs⟩ ∧ small.cfg.wf ∧
      geometryLegal small.cfg smallRegs = true ∧ depthLegal small.cfg smallRegs = true := by
  decide +kernel

/-- A parameter set for each clause. -/
theorem test_witness_BlendIgnoresInactiveSlot :
    (paramSet small.cfg { smallRegs with paramIdx := 1 }).r0 = 0 ∧ (paramSet small.cfg { smallRegs with paramIdx := 2 }).r1 = 0 ∧
    (∀ r, ∃ t, exec .blend (small.withPending .blend r) = .next t) ∧
    ∀ r flt, ∃ u, exec .blend (({ small with flt0 := flt } : State).withPending .blend r) = .next u :=
  ⟨by decide +kernel, by decide +kernel, fun _ => exec_next _ _, fun _ _ => exec_next _ _⟩

theorem test_witness_ZeroWeightsReproduceSource :
    small.cfg.rstBits = 4 ∧ small.cfg.prjBits = 7 ∧ smallRegs.xq0 = 0 ∧ smallRegs.xq1 = 0 ∧
    after (exec .blend (busyWith .blend { small with flt0 := [(0, 7)], flt1 := [(0, 9)] })) (fun t => cells t.dst [12]) =
      some [some 13] := by
  decide +kernel

/-- One witness for `RestoreWrites` and `ApplyIsRestoreThenBlend`. -/
theorem test_witness_Composite :
    (busyWith .restore small).pending = some ⟨encode .restore, smallRegs⟩ ∧ small.cfg.wf ∧
      firstFailure .restore small.cfg smallRegs = none ∧ firstFailure .apply small.cfg smallRegs = none := by
  decide +kernel

/-- P6 against P2 on the small plane: both clauses' hypotheses, and the two runs. -/
theorem test_witness_CompositesEqualPrimitives :
    small.pending = none ∧ small.err = false ∧ firstFailure .restore small.cfg small.regs = none ∧
    firstFailure .apply small.cfg small.regs = none ∧
    after (runCommands [.apply] small) id = after (runCommands (restorePrimitives small.cfg small.regs ++ [.blend]) small) id := by
  decide +kernel

theorem small_planeWritten : planeWritten small smallRegs := by
  have h : ∀ a < 25, Memory.get? small.src a ≠ none := by
    decide +kernel
  intro py px hy hx
  have hy' : py < 5 := hy
  have hx' : px < 5 := hx
  have hs : smallRegs.srcStride.toNat = 5 := rfl
  exact h _ (by rw [hs]; omega)

/-- Two blocks that share the plane only, for either clause. -/
theorem test_witness_CompositeDependsOnSourceOnly :
    ∃ s', small.cfg.wf ∧ planeWritten small smallRegs ∧ s'.cfg = small.cfg ∧ s'.src = small.src ∧ s'.gridD = [(0, 1)] ∧
      ∀ i ∈ [Instr.restore, .apply], firstFailure i small.cfg smallRegs = none ∧
        ∃ t t', exec i (small.withPending i smallRegs) = .next t ∧ exec i (State.withPending s' i smallRegs) = .next t' :=
  ⟨{ small with gridD := [(0, 1)], draws := 7 }, by decide +kernel, small_planeWritten, rfl, rfl, rfl, fun i hi =>
    ⟨by revert i; decide +kernel, _, _, (exec_next i _).choose_spec, (exec_next i _).choose_spec⟩⟩

theorem test_witness_StepKeepsSound :
    ∃ t, (busyWith .apply small).sound ∧ step (busyWith .apply small) = .next t := by
  obtain ⟨t, ht⟩ := exec_next .apply (busyWith .apply small)
  exact ⟨t.retire, by decide +kernel, by rw [step_run (i := .apply) (by decide), ht]; rfl⟩

theorem test_witness_SoundStepNeverStops :
    (before (.read 0x2FFFFF) small).sound ∧ insideBlock (before (.read 0x2FFFFF) small) = true := by
  decide +kernel

theorem test_witness_BusyBlockIsIsolated :
    ∃ t, (busyWith .apply small).pending ≠ none ∧
      step (before (.write (busAddress 0x20) 9) (busyWith .apply small)) = .next t ∧ t.regs.width = 1 ∧ t.dropped = true :=
  ⟨_, by decide, rfl, rfl, rfl⟩

theorem test_witness_ParameterRecordFixed : ∃ t, step small = .next t ∧ t.cfg = small.cfg :=
  ⟨_, rfl, rfl⟩

theorem test_witness_FormedAddressesInside : smallRecord.wf ∧ geometryLegal smallRecord smallRegs = true := by
  decide +kernel

end Sys2Proof.Tests
end

section
/-! SUPPORT. Everything a boundary event and a command can do to the block, said once, and the frame of a command's body. -/

namespace Sys2Proof.Machine

open Sys2Proof.Config

/-- What the boundary does on its own in one step, from the state `s` (R39, R78 to R85, R280). -/
inductive BoundaryEffect (s : State) : State → Prop where
  | nothing : BoundaryEffect s s
  | reset : BoundaryEffect s (hardReset s)
  | read (word : Word) (draws : Nat) : BoundaryEffect s { s with rdata := word, draws := draws }
  | dropped : BoundaryEffect s (dropWrite s)
  | register (idle : s.pending = none) (x : Reg) (v : Word) : BoundaryEffect s (writeReg x v s)
  | cell (idle : s.pending = none) (m : Ram) (n : Nat) (v : Word) : BoundaryEffect s (writeRam m n v s)
  | illegal (idle : s.pending = none) (w : Word) : BoundaryEffect s (refuseIllegal w s)

/-- Where the command that acts in a step comes from: a word written to `CMD` of an idle block, or `PENDING` (R84, R85). -/
inductive CommandSource (i : Instr) (s : State) : Prop where
  | written (idle : s.pending = none) (w : Word) (decoded : decode w = some i)
  | pending (p : Pending) (held : s.pending = some p) (decoded : decode p.word = some i) (operation : isOperation i = true)

/-- What a command does from the state `s`: its acceptance, its execution, a dropped write, or a control command's own effect
(R83 to R85, R233 to R235). -/
inductive CommandEffect (i : Instr) (s : State) : State → Prop where
  | acceptance (operation : isOperation i = true) (idle : s.pending = none) : CommandEffect i s (accept i s)
  | execution (operation : isOperation i = true) (p : Pending) (held : s.pending = some p) :
    CommandEffect i s (complete (bodyOf i p.regs s))
  | dropped : CommandEffect i s (dropWrite s)
  | nop (idle : s.pending = none) : CommandEffect i s { s with done := true }
  | clr (idle : s.pending = none) : CommandEffect i s (clearFlags s)
  | srst (idle : s.pending = none) : CommandEffect i s (resetRegisters s)

section
variable {s t : State} {i : Instr}

theorem boundaryEffect_of_hostRead {a : BitVec 22} (h : hostRead a s = .advance t) : BoundaryEffect s t := by
  unfold hostRead at h
  split at h <;> cases h
  case h_3 m n _ =>
    rw [readRam_frame]
    exact .read _ _
  all_goals exact .read _ _

theorem boundaryEffect_of_writeCmd {w : Word} (idle : s.pending = none) (h : writeCmd w s = .advance t) :
    BoundaryEffect s t := by
  unfold writeCmd at h
  split at h <;> cases h
  exact .illegal idle w

/-- A write that acts on an idle block only has that effect, or is dropped. -/
theorem boundaryEffect_of_idle_write (h : s.pending = none → BoundaryEffect s t) :
    BoundaryEffect s (if s.busy then dropWrite s else t) := by
  cases hb : s.busy
  · exact h ((busy_eq_false s).1 hb)
  · exact .dropped

theorem boundaryEffect_of_hostWrite {a : BitVec 22} {v : Word} (h : hostWrite a v s = .advance t) : BoundaryEffect s t := by
  unfold hostWrite at h
  split at h
  case h_1 => cases h
  case h_2 => cases h; exact .nothing
  case h_3 => cases h; exact boundaryEffect_of_idle_write fun _ => .nothing
  case h_4 m n _ => cases h; exact boundaryEffect_of_idle_write fun idle => .cell idle m n v
  case h_5 =>
    cases hb : s.busy
    · rw [hb] at h
      exact boundaryEffect_of_writeCmd ((busy_eq_false s).1 hb) h
    · rw [hb] at h
      cases h
      exact .dropped
  case h_6 x _ _ => cases h; exact boundaryEffect_of_idle_write fun idle => .register idle x v

theorem boundaryEffect_of_sequencerTurn (h : sequencerTurn s = .advance t) : BoundaryEffect s t := by
  unfold sequencerTurn at h
  split at h
  · cases h
    exact .nothing
  · split at h
    · split at h <;> cases h
    · cases h

/-- All the boundary can do on its own. -/
theorem boundaryEffect_of_advance (h : nextAction s = .advance t) : BoundaryEffect s t := by
  unfold nextAction at h
  split at h
  · exact boundaryEffect_of_sequencerTurn h
  · exact boundaryEffect_of_sequencerTurn h
  · cases h
    exact .reset
  · exact boundaryEffect_of_hostRead h
  · exact boundaryEffect_of_hostWrite h

theorem commandSource_of_hostWrite {a : BitVec 22} {v : Word} (h : hostWrite a v s = .run i) : CommandSource i s := by
  unfold hostWrite at h
  split at h <;> try cases h
  cases hb : s.busy
  · rw [hb] at h
    cases hd : decode v with
    | none => simp [writeCmd, hd] at h
    | some j =>
      simp only [writeCmd, hd, Bool.false_eq_true, if_false, Action.run.injEq] at h
      exact .written ((busy_eq_false s).1 hb) v (h ▸ hd)
  · simp [hb] at h

theorem commandSource_of_sequencerTurn (h : sequencerTurn s = .run i) : CommandSource i s := by
  cases hp : s.pending with
  | none => simp [sequencerTurn, hp] at h
  | some p =>
    cases hd : decode p.word with
    | none => simp [sequencerTurn, hp, hd] at h
    | some j =>
      cases ho : isOperation j
      · simp [sequencerTurn, hp, hd, ho] at h
      · simp only [sequencerTurn, hp, hd, ho, if_true, Action.run.injEq] at h
        exact .pending p hp (h ▸ hd) (h ▸ ho)

/-- A command that acts was written to an idle block or is pending. -/
theorem commandSource_of_run (h : nextAction s = .run i) : CommandSource i s := by
  unfold nextAction at h
  split at h
  · exact commandSource_of_sequencerTurn h
  · exact commandSource_of_sequencerTurn h
  · cases h
  · unfold hostRead at h
    split at h <;> cases h
  · exact commandSource_of_hostWrite h

theorem commandEffect_of_controlCommand {effect : State → State} (h : controlCommand effect s = .next t)
    (he : s.pending = none → CommandEffect i s (effect s)) : CommandEffect i s t := by
  unfold controlCommand at h
  cases h
  cases hb : s.busy
  · exact he ((busy_eq_false s).1 hb)
  · exact .dropped

/-- All a command can do. -/
theorem commandEffect_of_exec (h : exec i s = .next t) : CommandEffect i s t := by
  cases ho : isOperation i
  · cases i with
    | nop =>
      unfold exec execNop at h
      refine commandEffect_of_controlCommand h fun idle => ?_
      split
      · exact .dropped
      · exact .nop idle
    | clr => exact commandEffect_of_controlCommand h .clr
    | srst => exact commandEffect_of_controlCommand h .srst
    | _ => cases ho
  · rw [exec_operation ho] at h
    rcases operation_cases h with ⟨idle, rfl⟩ | ⟨p, held, rfl⟩
    · exact .acceptance ho idle
    · exact .execution ho p held

/-- All one step can do: the boundary's or a command's effect, with the boundary event past. -/
theorem stepEffect_of_step (h : step s = .next t) :
    ∃ u, t = u.retire ∧ (BoundaryEffect s u ∨ ∃ i, CommandSource i s ∧ CommandEffect i s u) := by
  rcases step_cases h with ⟨i, u, ha, hx, rfl⟩ | ⟨u, ha, rfl⟩
  · exact ⟨u, rfl, .inr ⟨i, commandSource_of_run ha, commandEffect_of_exec hx⟩⟩
  · exact ⟨u, rfl, .inl (boundaryEffect_of_advance ha)⟩

/-! The frame of a command's body -/

/-- `t` differs from `s` at most in what commands compute: `RESULT`, the memories but `SRC`, the accumulators and the draws. -/
def OnlyResultsDiffer (s t : State) : Prop :=
  t = { s with result := t.result, dst := t.dst, gridC := t.gridC, gridD := t.gridD, gridA := t.gridA, gridB := t.gridB,
               flt0 := t.flt0, flt1 := t.flt1, left1 := t.left1, left2 := t.left2, draws := t.draws }

theorem OnlyResultsDiffer.refl (s : State) : OnlyResultsDiffer s s := rfl

theorem OnlyResultsDiffer.trans {u : State} (h : OnlyResultsDiffer s t) (h' : OnlyResultsDiffer t u) :
    OnlyResultsDiffer s u := by
  unfold OnlyResultsDiffer at *
  rw [h', h]

theorem buildImages_onlyResultsDiffer (r : OperandRegs) (s : State) : OnlyResultsDiffer s (buildImages r s) := by
  unfold OnlyResultsDiffer
  rw [buildImages_frame]

theorem interpolate_onlyResultsDiffer (value : Nat → Nat → Word) (k : Slot) (r : OperandRegs) (s : State) :
    OnlyResultsDiffer s (interpolate value k r s) := by
  cases k <;> rfl

theorem restoreBody_onlyResultsDiffer (r : OperandRegs) (s : State) : OnlyResultsDiffer s (restoreBody r s) := by
  have slot0 : ∀ u, OnlyResultsDiffer u (restoreSlot0 r u) := by
    intro u
    unfold restoreSlot0
    split
    · exact .refl u
    · exact .trans (t := calcAbFastBody .slot0 r u) rfl (interpolate_onlyResultsDiffer _ _ _ _)
  have slot1 : ∀ u, OnlyResultsDiffer u (restoreSlot1 r u) := by
    intro u
    unfold restoreSlot1
    split
    · exact .refl u
    · exact .trans (t := calcAbBody .slot1 r u) rfl (interpolate_onlyResultsDiffer _ _ _ _)
  exact ((buildImages_onlyResultsDiffer r s).trans (slot0 _)).trans (slot1 _)

/-- The body of a command changes nothing but what commands compute. -/
theorem bodyOf_onlyResultsDiffer (i : Instr) (r : OperandRegs) (s : State) : OnlyResultsDiffer s (bodyOf i r s) := by
  cases i with
  | buildII => exact buildImages_onlyResultsDiffer r s
  | finalFilter k => exact interpolate_onlyResultsDiffer _ k r s
  | finalFilterFast k => exact interpolate_onlyResultsDiffer _ k r s
  | restore => exact restoreBody_onlyResultsDiffer r s
  | apply => exact (restoreBody_onlyResultsDiffer r s).trans rfl
  | nop | clr | srst => exact .refl s
  | boxsum | calcAb | calcAbFast | blend => rfl

/-! The parameter record -/

@[simp] theorem bodyOf_cfg (i : Instr) (r : OperandRegs) (s : State) : (bodyOf i r s).cfg = s.cfg := by
  rw [bodyOf_onlyResultsDiffer i r s]

@[simp] theorem writeReg_cfg (x : Reg) (v : Word) (s : State) : (writeReg x v s).cfg = s.cfg := by
  cases x <;> rfl

@[simp] theorem writeRam_cfg (m : Ram) (n : Nat) (v : Word) (s : State) : (writeRam m n v s).cfg = s.cfg := by
  unfold writeRam
  split
  · cases m <;> simp
  · rfl

@[simp] theorem refuseIllegal_cfg (w : Word) (s : State) : (refuseIllegal w s).cfg = s.cfg := by
  unfold refuseIllegal
  split <;> rfl

@[simp] theorem accept_cfg (i : Instr) (s : State) : (accept i s).cfg = s.cfg := by
  rcases accept_cases i s with ⟨-, h⟩ | ⟨e, -, -, h⟩ | ⟨-, -, h⟩ <;> rw [h] <;> rfl

theorem BoundaryEffect.cfg (h : BoundaryEffect s t) : t.cfg = s.cfg := by
  cases h with
  | register _ x v => exact writeReg_cfg x v s
  | cell _ m n v => exact writeRam_cfg m n v s
  | illegal _ w => exact refuseIllegal_cfg w s
  | _ => rfl

theorem CommandEffect.cfg (h : CommandEffect i s t) : t.cfg = s.cfg := by
  cases h with
  | acceptance => exact accept_cfg i s
  | execution _ p => exact bodyOf_cfg i p.regs s
  | _ => rfl

end

/-- Settles O55: neither the boundary nor a command writes the record. -/
theorem parameterRecordFixed : Obligations.ParameterRecordFixed := by
  unfold Obligations.ParameterRecordFixed
  intro s t h
  obtain ⟨u, rfl, hb | ⟨i, -, hc⟩⟩ := stepEffect_of_step h
  · exact hb.cfg
  · exact hc.cfg

end Sys2Proof.Machine
end

section
/-! SUPPORT. Every step keeps the invariant: each stage keeps the memories sound, and each effect of a step keeps the rest. -/

namespace Sys2Proof.Machine

open Sys2Proof.Config

/-! A command that a word decodes to comes back from its encoding -/

theorem wellFormed_of_decode {w : Word} {i : Instr} (h : decode w = some i) : i.wellFormed = true := by
  simp only [decode, Option.map_eq_some_iff] at h
  obtain ⟨row, hfind, rfl⟩ := h
  have hrow : ∀ row ∈ encodingTable, (row.build w).wellFormed = true := by
    have hr : radiusField w ≤ 15 := Nat.le_of_lt_succ (w.extractLsb' 4 4).isLt
    simp [encodingTable, Instr.wellFormed, hr]
  exact hrow row (List.mem_of_find?_eq_some hfind)

theorem decode_encode {i : Instr} (h : i.wellFormed = true) : decode (encode i) = some i := by
  cases i with
  | boxsum ch rad =>
    have hall : ∀ rad : Fin 16, ∀ c ∈ [Channel.sums, .squares], decode (encode (.boxsum c rad)) = some (.boxsum c rad) := by
      decide
    have hrad : rad ≤ 15 := by simpa [Instr.wellFormed] using h
    exact hall ⟨rad, by omega⟩ ch (by cases ch <;> simp)
  | calcAb k | calcAbFast k | finalFilter k | finalFilterFast k => cases k <;> decide
  | _ => decide

/-! The memories -/

section
variable {s t : State} {r : OperandRegs}

/-- The eight memories by name. -/
theorem memoriesSound_iff : s.memoriesSound ↔
    (∀ p, Memory.sound (s.plane p) (ramCells s.cfg (.plane p))) ∧
    ∀ g, Memory.sound (s.grid g) (ramCells s.cfg (.grid g)) := by
  constructor
  · rintro ⟨hsrc, hdst, hc, hd, ha, hb, h0, h1⟩
    refine ⟨fun p => ?_, fun g => ?_⟩
    · cases p <;> assumption
    · cases g <;> assumption
  · rintro ⟨hp, hg⟩
    exact ⟨hp .src, hp .dst, hg .c, hg .d, hg .a, hg .b, hg .flt0, hg .flt1⟩

theorem memoriesSound_setGrid {g : Grid} {m : Memory 32} (h : s.memoriesSound)
    (hm : Memory.sound m (ramCells s.cfg (.grid g))) : (s.setGrid g m).memoriesSound := by
  rw [memoriesSound_iff] at h ⊢
  refine ⟨fun p => ?_, fun g' => ?_⟩
  · simpa using h.1 p
  · rw [grid_setGrid, setGrid_cfg]
    split
    · next hg => exact hg ▸ hm
    · exact h.2 g'

theorem memoriesSound_setPlane {p : Plane} {m : Memory 16} (h : s.memoriesSound)
    (hm : Memory.sound m (ramCells s.cfg (.plane p))) : (s.setPlane p m).memoriesSound := by
  rw [memoriesSound_iff] at h ⊢
  refine ⟨fun p' => ?_, fun g => ?_⟩
  · rw [plane_setPlane, setPlane_cfg]
    split
    · next hp => exact hp ▸ hm
    · exact h.1 p'
  · simpa using h.2 g

/-- A list of writes to one grid below its size. -/
theorem memoriesSound_writeGrid {α : Type} (g : Grid) {cells : List α} {addr : α → Nat} {value : α → Word}
    (h : s.memoriesSound) (ha : ∀ x ∈ cells, addr x < ramCells s.cfg (.grid g)) :
    (s.setGrid g (Memory.setAll (s.grid g) (cells.map fun x => (addr x, value x)))).memoriesSound :=
  memoriesSound_setGrid h (sound_setAll ((memoriesSound_iff.1 h).2 g) (by simpa using ha))

/-- One write to a grid below its size. -/
theorem memoriesSound_writeCell (g : Grid) {a : Nat} {v : Word} (h : s.memoriesSound)
    (ha : a < ramCells s.cfg (.grid g)) : (s.setGrid g (Memory.set (s.grid g) a v)).memoriesSound :=
  memoriesSound_setGrid h (sound_set ((memoriesSound_iff.1 h).2 g) ha v)

theorem memoriesSound_writeRam {m : Ram} {n : Nat} {v : Word} (h : s.memoriesSound) :
    (writeRam m n v s).memoriesSound := by
  unfold writeRam
  split
  case isTrue hn =>
    cases m with
    | plane p => exact memoriesSound_setPlane h (sound_set ((memoriesSound_iff.1 h).1 p) hn _)
    | grid g => exact memoriesSound_writeCell g h hn
  case isFalse => exact h

/-! The builder's loops: the record stays, so the sizes do, and the memories stay sound -/

/-- What every loop of the builder keeps of the state it began in. -/
def KeepsMemories (s t : State) : Prop := t.cfg = s.cfg ∧ t.memoriesSound

/-- Both image cells at an address below their size written, whatever the values and the left sums. -/
theorem KeepsMemories.writeImages {a : Nat} {vc vd l1 l2 : Word} (h : KeepsMemories s t) (ha : a < s.cfg.bufCells) :
    KeepsMemories s { t with gridC := Memory.set t.gridC a vc, gridD := Memory.set t.gridD a vd, left1 := l1, left2 := l2 } := by
  obtain ⟨hcfg, hm⟩ := h
  rw [← hcfg] at ha
  exact ⟨hcfg, memoriesSound_writeCell .d (memoriesSound_writeCell .c hm ha) ha⟩

/-- Under the geometry check every place of the footprint lies inside the images (R73, R254). -/
theorem iiAddr_lt {P : Params} (hg : geometryLegal P r = true) {y x : Nat} (hy : y ≤ heightExt P r)
    (hx : x ≤ widthExt P r + P.zpad) : iiAddr r y x < P.bufCells := by
  obtain ⟨-, -, -, hbs, -, -, hbuf, -⟩ := geometryLegal_iff.1 hg
  exact lt_of_lt_of_le (rowMajor_lt (by omega) (by omega)) hbuf

theorem KeepsMemories.row {y : Nat} (h : KeepsMemories s t) (hg : geometryLegal s.cfg r = true) (hy : y ≤ heightExt s.cfg r) :
    KeepsMemories s (buildRow r t y) := by
  have hstart : KeepsMemories s { clearImageCell (iiAddr r y 0) t with left1 := 0, left2 := 0 } :=
    h.writeImages (iiAddr_lt hg hy (by omega))
  have hfill := foldl_range'_induct (fun _ u => KeepsMemories s u) (buildCell r y) 1 (widthExt s.cfg r) _ hstart
    fun x u _ hx hu => hu.writeImages (iiAddr_lt hg hy (by omega))
  have hstrip := foldl_range'_induct (fun _ u => KeepsMemories s u) (fun u x => clearImageCell (iiAddr r y x) u)
    (widthExt s.cfg r + 1) s.cfg.zpad _ hfill fun x u _ hx hu => hu.writeImages (iiAddr_lt hg hy (by omega))
  simp only [buildRow, h.1]
  exact hstrip

theorem keepsMemories_zeroRow (h : s.memoriesSound) (hg : geometryLegal s.cfg r = true) :
    KeepsMemories s (buildZeroRow r s) := by
  unfold buildZeroRow
  rw [List.range_eq_range']
  exact foldl_range'_induct (fun _ u => KeepsMemories s u) _ 0 _ s ⟨rfl, h⟩
    fun x u _ hx hu => hu.writeImages (iiAddr_lt hg (by omega) (by omega))

/-! The bodies of the commands -/

theorem memoriesSound_buildImages (hg : geometryLegal s.cfg r = true) (h : s.memoriesSound) :
    (buildImages r s).memoriesSound :=
  (foldl_range'_induct (fun _ u => KeepsMemories s u) (buildRow r) 1 (heightExt s.cfg r) _ (keepsMemories_zeroRow h hg)
    fun y u _ hy hu => hu.row hg (by omega)).2

theorem memoriesSound_estimate {cells : List (Int × Int)} {k : Slot} (hP : s.cfg.wf) (hg : geometryLegal s.cfg r = true)
    (hc : ∀ p ∈ cells, p ∈ preciseWindow r) (h : s.memoriesSound) : (estimate cells k r s).memoriesSound := by
  have ha : ∀ p ∈ cells, posAddr s.cfg r p.1 p.2 < s.cfg.bufCells := fun p hp => posAddr_lt hP hg (hc p hp)
  exact memoriesSound_writeGrid .b (memoriesSound_writeGrid .a h ha) ha

theorem memoriesSound_interpolate {value : Nat → Nat → Word} {k : Slot} (hg : geometryLegal s.cfg r = true)
    (h : s.memoriesSound) : (interpolate value k r s).memoriesSound := by
  refine memoriesSound_writeGrid (fltGrid k) h fun p hp => ?_
  have := fltAddr_lt hg hp
  cases k <;> exact this

theorem memoriesSound_blendBody (hg : geometryLegal s.cfg r = true) (h : s.memoriesSound) :
    (blendBody r s).memoriesSound := by
  refine memoriesSound_setPlane (s := s) (p := .dst) h (sound_setAll ((memoriesSound_iff.1 h).1 .dst) ?_)
  intro q hq
  obtain ⟨p, hp, rfl⟩ := List.mem_map.1 hq
  exact dstAddr_lt hg hp

theorem memoriesSound_calcAb {k : Slot} (hP : s.cfg.wf) (hg : geometryLegal s.cfg r = true) (h : s.memoriesSound) :
    (calcAbBody k r s).memoriesSound :=
  memoriesSound_estimate hP hg (fun _ hp => hp) h

theorem memoriesSound_calcAbFast {k : Slot} (hP : s.cfg.wf) (hg : geometryLegal s.cfg r = true) (h : s.memoriesSound) :
    (calcAbFastBody k r s).memoriesSound :=
  memoriesSound_estimate hP hg (fun _ hp => fastWindow_subset hp) h

theorem memoriesSound_restoreSlot0 (hP : s.cfg.wf) (hg : geometryLegal s.cfg r = true) (h : s.memoriesSound) :
    (restoreSlot0 r s).memoriesSound := by
  unfold restoreSlot0
  split
  · exact h
  · exact memoriesSound_interpolate hg (memoriesSound_calcAbFast hP hg h)

theorem memoriesSound_restoreSlot1 (hP : s.cfg.wf) (hg : geometryLegal s.cfg r = true) (h : s.memoriesSound) :
    (restoreSlot1 r s).memoriesSound := by
  unfold restoreSlot1
  split
  · exact h
  · exact memoriesSound_interpolate hg (memoriesSound_calcAb hP hg h)

theorem restoreSlot0_cfg (r : OperandRegs) (s : State) : (restoreSlot0 r s).cfg = s.cfg := by
  unfold restoreSlot0
  split
  · rfl
  · exact bodyOf_cfg (.finalFilterFast .slot0) r _

theorem memoriesSound_restoreBody (hP : s.cfg.wf) (hg : geometryLegal s.cfg r = true) (h : s.memoriesSound) :
    (restoreBody r s).memoriesSound := by
  have himg : (buildImages r s).cfg = s.cfg := bodyOf_cfg .buildII r s
  have hslot : (restoreSlot0 r (buildImages r s)).cfg = s.cfg := (restoreSlot0_cfg r _).trans himg
  refine memoriesSound_restoreSlot1 (hslot ▸ hP) (hslot ▸ hg) ?_
  exact memoriesSound_restoreSlot0 (himg ▸ hP) (himg ▸ hg) (memoriesSound_buildImages hg h)

/-- On a configuration that passed the geometry check every body keeps the memories sound. -/
theorem memoriesSound_bodyOf (i : Instr) (hP : s.cfg.wf) (hg : geometryLegal s.cfg r = true) (h : s.memoriesSound) :
    (bodyOf i r s).memoriesSound := by
  cases i with
  | buildII => exact memoriesSound_buildImages hg h
  | calcAb k => exact memoriesSound_calcAb hP hg h
  | calcAbFast k => exact memoriesSound_calcAbFast hP hg h
  | finalFilter k => exact memoriesSound_interpolate hg h
  | finalFilterFast k => exact memoriesSound_interpolate hg h
  | blend => exact memoriesSound_blendBody hg h
  | restore => exact memoriesSound_restoreBody hP hg h
  | apply =>
    have hcfg : (restoreBody r s).cfg = s.cfg := bodyOf_cfg .restore r s
    exact memoriesSound_blendBody (hcfg ▸ hg) (memoriesSound_restoreBody hP hg h)
  | boxsum | nop | clr | srst => exact h

end

/-! The whole invariant -/

section
variable {s t : State} {i : Instr}

theorem pendingSound_of_idle (idle : s.pending = none) : pendingSound s = true := by
  simp [pendingSound, idle]

/-- What a sound `PENDING` says of the command it holds. -/
theorem pendingSound_some {p : Pending} (held : s.pending = some p) : pendingSound s = true ↔
    ∃ i, decode p.word = some i ∧ isOperation i = true ∧ firstFailure i s.cfg p.regs = none ∧ p.regs = s.regs ∧
      s.done = false ∧ s.err = false := by
  cases hd : decode p.word with
  | none => simp [pendingSound, held, hd]
  | some i => simp [pendingSound, held, hd, and_assoc]

/-- A soft reset, a hard reset and `CLR` leave no error. -/
theorem errorSound_of_clear (he : s.err = false) (hcode : s.errCode = 0) (hcmd : s.errCmd = 0) : s.errorSound := by
  simp [State.errorSound, he, hcode, hcmd]

theorem sound_raiseError (e : ErrCode) (w : Word) (h : s.sound) (idle : s.pending = none) : (raiseError e w s).sound := by
  obtain ⟨hP, hm, -, -⟩ := h
  have hcode : 1 ≤ e.code.toNat ∧ e.code.toNat ≤ 7 := by
    cases e <;> decide
  exact ⟨hP, hm, hcode, pendingSound_of_idle idle⟩

theorem sound_hardReset (hP : s.cfg.wf) : (hardReset s).sound := by
  have hnil : ∀ w n, Memory.sound ([] : Memory w) n := fun w n => ⟨List.Pairwise.nil, by simp⟩
  refine ⟨hP, memoriesSound_iff.2 ⟨fun p => ?_, fun g => ?_⟩, errorSound_of_clear rfl rfl rfl, rfl⟩
  · cases p <;> exact hnil _ _
  · cases g <;> exact hnil _ _

theorem sound_refuseIllegal (w : Word) (h : s.sound) (idle : s.pending = none) : (refuseIllegal w s).sound := by
  unfold refuseIllegal
  split
  · exact h
  · exact sound_raiseError _ _ h idle

theorem sound_writeReg (x : Reg) (v : Word) (h : s.sound) (idle : s.pending = none) : (writeReg x v s).sound := by
  obtain ⟨hP, hm, he, -⟩ := h
  cases x <;> exact ⟨hP, hm, he, pendingSound_of_idle idle⟩

theorem writeRam_errors_pending (m : Ram) (n : Nat) (v : Word) (s : State) :
    (writeRam m n v s).err = s.err ∧ (writeRam m n v s).errCode = s.errCode ∧ (writeRam m n v s).errCmd = s.errCmd ∧
      (writeRam m n v s).pending = s.pending := by
  unfold writeRam
  split
  · cases m <;> simp
  · simp

theorem sound_writeRam (m : Ram) (n : Nat) (v : Word) (h : s.sound) (idle : s.pending = none) : (writeRam m n v s).sound := by
  obtain ⟨hP, hm, he, -⟩ := h
  obtain ⟨h1, h2, h3, h4⟩ := writeRam_errors_pending m n v s
  refine ⟨(writeRam_cfg m n v s).symm ▸ hP, memoriesSound_writeRam hm, ?_, pendingSound_of_idle (h4.trans idle)⟩
  simpa only [State.errorSound, h1, h2, h3] using he

/-- The boundary keeps the invariant. -/
theorem BoundaryEffect.sound (h : s.sound) (hb : BoundaryEffect s t) : t.sound := by
  cases hb with
  | nothing | read | dropped => exact h
  | reset => exact sound_hardReset h.1
  | register idle x v => exact sound_writeReg x v h idle
  | cell idle m n v => exact sound_writeRam m n v h idle
  | illegal idle w => exact sound_refuseIllegal w h idle

/-- An acceptance keeps the invariant: what it puts in `PENDING` decodes to the command that passed its checks (R84). -/
theorem sound_accept (h : s.sound) (operation : isOperation i = true) (idle : s.pending = none)
    (hwf : i.wellFormed = true) : (accept i s).sound := by
  rcases accept_cases i s with ⟨-, ha⟩ | ⟨e, -, -, ha⟩ | ⟨herr, hpass, ha⟩ <;> rw [ha]
  · exact h
  · exact sound_raiseError e _ h idle
  · obtain ⟨hP, hm, he, -⟩ := h
    exact ⟨hP, hm, he, (pendingSound_some rfl).2 ⟨i, decode_encode hwf, operation, hpass, rfl, rfl, herr⟩⟩

/-- An execution keeps the invariant: the held command passed the geometry check, so its body writes inside the memories (R254). -/
theorem sound_execution {p : Pending} (h : s.sound) (operation : isOperation i = true) (held : s.pending = some p)
    (decoded : decode p.word = some i) : (complete (bodyOf i p.regs s)).sound := by
  obtain ⟨hP, hm, he, hpend⟩ := h
  obtain ⟨j, hj, -, hpass, -⟩ := (pendingSound_some held).1 hpend
  obtain rfl : i = j := Option.some.inj (decoded.symm.trans hj)
  have hbody := memoriesSound_bodyOf i hP (legal_of_accepted operation hpass).2 hm
  refine ⟨(bodyOf_cfg i p.regs s).symm ▸ hP, hbody, ?_, pendingSound_of_idle rfl⟩
  rw [bodyOf_onlyResultsDiffer i p.regs s]
  exact he

/-- A command keeps the invariant. -/
theorem CommandEffect.sound (h : s.sound) (hs : CommandSource i s) (hc : CommandEffect i s t) : t.sound := by
  cases hc with
  | acceptance operation idle =>
    refine sound_accept h operation idle ?_
    cases hs with
    | written _ w decoded => exact wellFormed_of_decode decoded
    | pending p _ decoded _ => exact wellFormed_of_decode decoded
  | execution operation p held =>
    cases hs with
    | written idle => exact absurd (held.symm.trans idle) (by simp)
    | pending q held' decoded _ =>
      obtain rfl : p = q := Option.some.inj (held.symm.trans held')
      exact sound_execution h operation held decoded
  | dropped => exact h
  | nop idle =>
    obtain ⟨hP, hm, he, -⟩ := h
    exact ⟨hP, hm, he, pendingSound_of_idle idle⟩
  | clr idle =>
    obtain ⟨hP, hm, -, -⟩ := h
    exact ⟨hP, hm, errorSound_of_clear rfl rfl rfl, pendingSound_of_idle idle⟩
  | srst idle =>
    obtain ⟨hP, hm, -, -⟩ := h
    exact ⟨hP, hm, errorSound_of_clear rfl rfl rfl, pendingSound_of_idle rfl⟩

theorem sound_retire (h : s.sound) : s.retire.sound := h

end

/-- Settles O52: the boundary's and a command's effect keep the invariant, and retiring the event touches nothing it speaks of. -/
theorem stepKeepsSound : Obligations.StepKeepsSound := by
  unfold Obligations.StepKeepsSound
  intro s t h hstep
  obtain ⟨u, rfl, hb | ⟨i, hs, hc⟩⟩ := stepEffect_of_step hstep
  · exact sound_retire (hb.sound h)
  · exact sound_retire (hc.sound h hs)

/-- The record `TV` is legal. -/
theorem testRecord_wf : testRecord.wf := by
  decide +kernel

/-- Settles O51: the reset state is its own reset, and `TV` is a legal record. -/
theorem resetIsSound : Obligations.ResetIsSound :=
  sound_hardReset (s := State.reset) testRecord_wf

end Sys2Proof.Machine
end

section
/-! SUPPORT. The host's port and what the registers read: a register after a write, the discarded writes, the places a read reaches,
and the fields of `STATUS` and of the capability words. -/

namespace Sys2Proof.Machine

open Sys2Proof.Config

/-! Fields of a word -/

/-- A word cut to its low bits and widened again is the word under the mask of those bits. -/
theorem setWidth_setWidth_eq_mask (v : Word) {k : Nat} (hk : k ≤ 32) :
    (v.setWidth k).setWidth 32 = v &&& BitVec.ofNat 32 (2 ^ k - 1) := by
  have hpow : 2 ^ k ≤ 2 ^ 32 := Nat.pow_le_pow_right (by omega) hk
  have hpos : 0 < 2 ^ k := Nat.two_pow_pos k
  apply BitVec.eq_of_toNat_eq
  rw [BitVec.toNat_and, BitVec.toNat_ofNat, Nat.mod_eq_of_lt (by omega : 2 ^ k - 1 < 2 ^ 32), Nat.and_two_pow_sub_one_eq_mod]
  have hlt : v.toNat % 2 ^ k < 2 ^ k := Nat.mod_lt _ hpos
  simp only [BitVec.toNat_setWidth]
  omega

/-- A word put together from two fields, as a number. -/
theorem toNat_append_eq {n m : Nat} (hi : BitVec n) (lo : BitVec m) : (hi ++ lo).toNat = hi.toNat * 2 ^ m + lo.toNat := by
  rw [BitVec.toNat_append, ← Nat.shiftLeft_add_eq_or_of_lt lo.isLt, Nat.shiftLeft_eq]

/-- A field of a word, as a number. -/
theorem toNat_field (w : Word) (start len : Nat) : (w.extractLsb' start len).toNat = w.toNat / 2 ^ start % 2 ^ len := by
  rw [BitVec.extractLsb'_toNat, Nat.shiftRight_eq_div_pow]

/-! Registers after a write -/

section
variable {s : State} {x : Reg} {v : Word}

/-- The registers that a write reaches, `CMD` aside (R38). -/
def writableRegs : List Reg :=
  [.irqEn, .width, .height, .srcStride, .bufStride, .depth, .paramIdx, .xq0, .xq1, .qx, .qy]

/-- A register that is not read-write ignores a write (R39). -/
theorem writeReg_of_not_writable (h : x ∉ writableRegs) (v : Word) (s : State) : writeReg x v s = s := by
  cases x <;> first | rfl | exact absurd (by decide) h

theorem writeReg_frame (x : Reg) (v : Word) (s : State) :
    writeReg x v s =
      { s with regs := (writeReg x v s).regs, doneIe := (writeReg x v s).doneIe, errIe := (writeReg x v s).errIe } := by
  cases x <;> rfl

/-- A write of one register leaves what every other register reads. -/
theorem readReg_writeReg_of_ne {y : Reg} (h : y ≠ x) (v : Word) (s : State) : readReg (writeReg x v s) y = readReg s y := by
  by_cases hx : x ∈ writableRegs
  · cases y with
    | id | cap0 | cap1 | cmd | status | errCmd | cap2 | result =>
      rw [writeReg_frame]
      rfl
    | _ => cases x <;> first | rfl | exact absurd rfl h
  · rw [writeReg_of_not_writable hx]

/-- The implemented bits of a written word, as the register then reads (R29, R38). -/
def implementedBits (x : Reg) (v : Word) : Word :=
  match x with
  | .irqEn => v &&& 0x3
  | .depth => v &&& 0x11F
  | .paramIdx => v &&& 0xFF
  | .xq0 => v
  | .xq1 => v
  | .qx => (v.setWidth 16).signExtend 32
  | .qy => (v.setWidth 16).signExtend 32
  | _ => v &&& 0xFFFF

theorem irqEn_bits (v : Word) : 0#30 ++ BitVec.ofBool (v.getLsbD 1) ++ BitVec.ofBool (v.getLsbD 0) = v &&& 0x3#32 := by
  apply BitVec.eq_of_getLsbD_eq
  intro i hi
  simp only [BitVec.getLsbD_append, BitVec.getLsbD_and]
  interval_cases i <;> simp

theorem depth_bits (v : Word) : 0#23 ++ BitVec.ofBool (v.getLsbD 8) ++ 0#3 ++ v.setWidth 5 = v &&& 0x11F#32 := by
  apply BitVec.eq_of_getLsbD_eq
  intro i hi
  simp only [BitVec.getLsbD_append, BitVec.getLsbD_and]
  interval_cases i <;> simp

theorem readReg_writeReg_self (h : x ∈ writableRegs) (v : Word) (s : State) :
    readReg (writeReg x v s) x = implementedBits x v := by
  cases x with
  | irqEn => exact irqEn_bits v
  | depth => exact depth_bits v
  | paramIdx => exact setWidth_setWidth_eq_mask v (k := 8) (by decide)
  | width | height | srcStride | bufStride => exact setWidth_setWidth_eq_mask v (k := 16) (by decide)
  | xq0 | xq1 | qx | qy => rfl
  | _ => exact absurd h (by decide)

end

/-! Writes and reads through the port -/

section
variable {s : State} {a : BitVec 22} {rest : List HostEvent}

/-- A host write that the boundary answers by itself. -/
theorem step_write {v : Word} {t : State} (hs : s.script = .write a v :: rest) (h : hostWrite a v s = .advance t) :
    step s = .next t.retire :=
  step_advance ((nextAction_write hs).trans h)

theorem step_write_discarded {v : Word} (hs : s.script = .write a v :: rest) (h : hostWrite a v s = .advance s) :
    step s = .next { s with script := rest } := by
  rw [step_write hs h, State.retire, hs]
  rfl

theorem writeRam_beyond {m : Ram} {n : Nat} (h : ramCells s.cfg m ≤ n) (v : Word) : writeRam m n v s = s := by
  unfold writeRam
  exact if_neg (by omega)

theorem hostWrite_reserved (h : target s.cfg a = .reserved) (v : Word) : hostWrite a v s = .advance s := by
  simp [hostWrite, h]

theorem hostWrite_rom {w : Word} (hp : s.pending = none) (h : target s.cfg a = .rom w) (v : Word) :
    hostWrite a v s = .advance s := by
  simp [hostWrite, h, (busy_eq_false s).2 hp]

theorem hostWrite_beyond {m : Ram} {n : Nat} (hp : s.pending = none) (h : target s.cfg a = .ram m n)
    (hn : ramCells s.cfg m ≤ n) (v : Word) : hostWrite a v s = .advance s := by
  simp [hostWrite, h, (busy_eq_false s).2 hp, writeRam_beyond hn]

/-- A host read of a place whose word the state determines. -/
theorem step_read {w : Word} (hs : s.script = .read a :: rest) (h : hostRead a s = .advance { s with rdata := w }) :
    step s = .next { s with rdata := w, script := rest } := by
  rw [step_advance ((nextAction_read hs).trans h), State.retire, hs]
  rfl

theorem step_read_reg (x : Reg) (hs : s.script = .read (busAddress x.offset) :: rest) :
    step s = .next { s with rdata := readReg s x, script := rest } :=
  step_read hs (by simp [hostRead])

theorem step_read_reserved (hs : s.script = .read a :: rest) (h : target s.cfg a = .reserved) :
    step s = .next { s with rdata := 0, script := rest } :=
  step_read hs (by simp [hostRead, h])

theorem step_read_rom {w : Word} (hs : s.script = .read a :: rest) (h : target s.cfg a = .rom w) :
    step s = .next { s with rdata := w, script := rest } :=
  step_read hs (by simp [hostRead, h])

/-- A read of a table of 16-bit entries: the entry, and 0 beyond the table (R78). -/
theorem step_read_table {table : List Half} {n : Nat} (hs : s.script = .read a :: rest)
    (ht : target s.cfg a = .rom ((table.getD n 0).setWidth 32)) :
    (∀ h : n < table.length, step s = .next { s with rdata := table[n].setWidth 32, script := rest }) ∧
    (table.length ≤ n → step s = .next { s with rdata := 0, script := rest }) := by
  refine ⟨fun h => ?_, fun h => ?_⟩
  · rw [step_read_rom hs ht, List.getD_eq_getElem _ _ h]
  · rw [step_read_rom hs ht, List.getD_eq_default _ _ h]
    rfl

end

/-- The word of `ROM_PARAMS` at field `f` of entry `e` (R78). -/
theorem romParamsWord_entry {P : Params} {e f : Nat} (hf : f < 4) (h : e < P.romParams.length) :
    romParamsWord P (4 * e + f) = paramField P.romParams[e] f := by
  have hdiv : (4 * e + f) / 4 = e := by omega
  have hmod : (4 * e + f) % 4 = f := by omega
  simp [romParamsWord, hdiv, hmod, h]

theorem romParamsWord_beyond {P : Params} {n : Nat} (h : P.romParams.length ≤ n / 4) : romParamsWord P n = 0 := by
  simp [romParamsWord, h]

/-! The fields of `STATUS` and of the capability words -/

theorem statusWord_toNat (s : State) : s.statusWord.toNat =
    s.errCode.toNat * 2 ^ 8 + s.dropped.toNat * 2 ^ 3 + s.err.toNat * 2 ^ 2 + s.done.toNat * 2 + s.busy.toNat := by
  simp only [State.statusWord, toNat_append_eq, BitVec.toNat_ofNat, BitVec.toNat_ofBool]
  omega

/-- The flag bits of `STATUS` (R34). -/
theorem statusWord_flags (s : State) :
    s.statusWord.getLsbD 0 = s.busy ∧ s.statusWord.getLsbD 1 = s.done ∧ s.statusWord.getLsbD 2 = s.err ∧
      s.statusWord.getLsbD 3 = s.dropped := by
  simp only [State.statusWord, BitVec.getLsbD_append]
  simp

/-- `ERRCODE` and the zero fields around it (R34). -/
theorem statusWord_fields (s : State) :
    s.statusWord.extractLsb' 4 4 = 0 ∧ s.statusWord.extractLsb' 8 4 = s.errCode ∧ s.statusWord.extractLsb' 12 20 = 0 := by
  have hcode : s.errCode.toNat < 2 ^ 4 := s.errCode.isLt
  have hbusy := s.busy.toNat_le
  have hdone := s.done.toNat_le
  have herr := s.err.toNat_le
  have hdropped := s.dropped.toNat_le
  refine ⟨BitVec.eq_of_toNat_eq ?_, BitVec.eq_of_toNat_eq ?_, BitVec.eq_of_toNat_eq ?_⟩ <;>
  · simp only [toNat_field, statusWord_toNat, BitVec.ofNat_eq_ofNat, BitVec.toNat_ofNat]
    omega

/-- The bits of `IRQ_EN` (R36). -/
theorem readReg_irqEn_bits (s : State) :
    (readReg s .irqEn).getLsbD 0 = s.doneIe ∧ (readReg s .irqEn).getLsbD 1 = s.errIe := by
  simp only [readReg, BitVec.getLsbD_append]
  simp

section
variable {P : Params}

theorem cap0Word_toNat (P : Params) : (cap0Word P).toNat =
    (P.nParams - 1) % 2 ^ 8 * 2 ^ 16 + P.zpad % 2 ^ 8 * 2 ^ 8 + P.borderV % 2 ^ 4 * 2 ^ 4 + P.borderH % 2 ^ 4 := by
  simp only [cap0Word, toNat_append_eq, BitVec.toNat_ofNat]
  omega

theorem cap1Word_toNat (P : Params) : (cap1Word P).toNat =
    (depthMask P).toNat * 2 ^ 24 + P.mtableBits % 2 ^ 5 * 2 ^ 16 + P.recipBits % 2 ^ 4 * 2 ^ 12 +
      P.prjBits % 2 ^ 4 * 2 ^ 8 + P.rstBits % 2 ^ 4 * 2 ^ 4 + P.sgrBits % 2 ^ 4 := by
  simp only [cap1Word, toNat_append_eq, BitVec.toNat_ofNat]
  omega

theorem cap2Word_toNat (P : Params) : (cap2Word P).toNat = P.hMax % 2 ^ 16 * 2 ^ 16 + P.wMax % 2 ^ 16 := by
  simp only [cap2Word, toNat_append_eq, BitVec.toNat_ofNat]

/-- The bit of `CAP1` for a depth of 8 to 12 (R32). -/
theorem cap1Word_depth (P : Params) {d : Nat} (h8 : 8 ≤ d) (h12 : d ≤ 12) :
    (cap1Word P).getLsbD (24 + (d - 8)) = P.depths.contains d := by
  simp only [cap1Word, depthMask, BitVec.getLsbD_append]
  interval_cases d <;> simp

theorem cap0Word_fields (h : P.wf) :
    ((cap0Word P).extractLsb' 0 4).toNat = P.borderH ∧ ((cap0Word P).extractLsb' 4 4).toNat = P.borderV ∧
    ((cap0Word P).extractLsb' 8 8).toNat = P.zpad ∧ ((cap0Word P).extractLsb' 16 8).toNat = P.nParams - 1 ∧
    (cap0Word P).extractLsb' 24 8 = 0 := by
  obtain ⟨hH, hV, -, -, -, -, -, hN, hZ, -⟩ := h
  rw [← BitVec.toNat_inj]
  simp only [toNat_field, cap0Word_toNat, BitVec.ofNat_eq_ofNat, BitVec.toNat_ofNat]
  omega

theorem cap1Word_fields (h : P.wf) :
    ((cap1Word P).extractLsb' 0 4).toNat = P.sgrBits ∧ ((cap1Word P).extractLsb' 4 4).toNat = P.rstBits ∧
    ((cap1Word P).extractLsb' 8 4).toNat = P.prjBits ∧ ((cap1Word P).extractLsb' 12 4).toNat = P.recipBits ∧
    ((cap1Word P).extractLsb' 16 5).toNat = P.mtableBits ∧ (cap1Word P).extractLsb' 21 3 = 0 ∧
    (cap1Word P).extractLsb' 29 3 = 0 := by
  obtain ⟨-, -, hS, hR, hJ, hM, hC, -⟩ := h
  have hmask : (depthMask P).toNat < 2 ^ 5 := (depthMask P).isLt
  rw [← BitVec.toNat_inj, ← BitVec.toNat_inj]
  simp only [toNat_field, cap1Word_toNat, BitVec.ofNat_eq_ofNat, BitVec.toNat_ofNat]
  omega

theorem cap2Word_fields (h : P.wf) :
    ((cap2Word P).extractLsb' 0 16).toNat = P.wMax ∧ ((cap2Word P).extractLsb' 16 16).toNat = P.hMax := by
  obtain ⟨-, -, -, -, -, -, -, -, -, hW, hH, -⟩ := h
  simp only [toNat_field, cap2Word_toNat]
  omega

end

/-! The statements -/

/-- Settles O18: the write is `writeReg`, the read returns `readReg` of the state it left. -/
theorem registerWriteReadsBack : Obligations.RegisterWriteReadsBack := by
  unfold Obligations.RegisterWriteReadsBack
  intro s x v rest idle hx hs
  have hcmd : x ≠ .cmd := by
    rintro rfl
    exact absurd hx (by decide)
  have hwrite := step_write hs (hostWrite_reg idle hcmd v)
  have hscript : (writeReg x v s).retire.script = .read (busAddress x.offset) :: rest := by
    rw [writeReg_frame, retire_script]
    simp [hs]
  refine ⟨_, _, hwrite, step_read_reg x hscript, fun y hy => readReg_writeReg_of_ne hy v s, ?_, rfl, ?_⟩
  · rw [writeReg_frame]
    rfl
  · refine (readReg_writeReg_self hx v s).trans ?_
    cases x <;> rfl

/-- Settles O19: none of these places keeps what is written to it. -/
theorem discardedWriteChangesNothing : Obligations.DiscardedWriteChangesNothing := by
  unfold Obligations.DiscardedWriteChangesNothing
  intro s a v rest idle hs hplace
  have hreadOnly : ∀ x ∈ [Reg.id, .cap0, .cap1, .status, .errCmd, .cap2, .result], x ≠ .cmd ∧ x ∉ writableRegs := by
    decide
  refine step_write_discarded hs ?_
  rcases hplace with ⟨x, hx, rfl⟩ | ⟨hlo, hhi⟩ | ⟨hlo, hhi⟩ | ⟨m, n, ht, hn⟩
  · obtain ⟨hcmd, hnot⟩ := hreadOnly x hx
    rw [hostWrite_reg idle hcmd, writeReg_of_not_writable hnot]
  · exact hostWrite_reserved (target_reserved s.cfg hlo hhi) v
  · have hrom : ∃ w, target s.cfg a = .rom w := by
      rcases target_cases s.cfg a with ⟨_, h, -⟩ | ⟨-, h, -⟩ | ⟨-, h, -⟩ | ⟨-, -, h⟩ | ⟨h, -⟩
      all_goals first | exact h | omega
    obtain ⟨w, hw⟩ := hrom
    exact hostWrite_rom idle hw v
  · exact hostWrite_beyond idle ht hn v

/-- Settles O23: each place's target is known, and a read returns the word of its target. -/
theorem portReadReturnsRegisterOrRom : Obligations.PortReadReturnsRegisterOrRom := by
  unfold Obligations.PortReadReturnsRegisterOrRom
  intro s a rest hs
  refine ⟨?_, fun hlo hhi => step_read_reserved hs (target_reserved s.cfg hlo hhi),
    fun n hn ha => step_read_table hs ((target_rom s.cfg hn).1 ha),
    fun n hn ha => step_read_table hs ((target_rom s.cfg hn).2.1 ha), fun e he => ?_⟩
  · rintro x rfl
    exact step_read_reg x hs
  · have hword : ∀ f, f < 4 → a.toNat = 11 * 2 ^ 18 + 4 * e + f →
        step s = .next { s with rdata := romParamsWord s.cfg (4 * e + f), script := rest } := fun f hf ha =>
      step_read_rom hs ((target_rom s.cfg (by omega)).2.2 (by omega))
    refine ⟨fun h => ?_, fun h f hf ha => ?_⟩
    · have hfield : ∀ f, f < 4 → a.toNat = 11 * 2 ^ 18 + 4 * e + f →
          step s = .next { s with rdata := paramField s.cfg.romParams[e] f, script := rest } := fun f hf ha =>
        romParamsWord_entry hf h ▸ hword f hf ha
      exact ⟨hfield 0 (by decide), hfield 1 (by decide), hfield 2 (by decide), hfield 3 (by decide)⟩
    · rw [hword f hf ha, romParamsWord_beyond (by omega)]

/-- Settles O25, word by word. -/
theorem capabilityWordsDescribeRecord : Obligations.CapabilityWordsDescribeRecord := by
  unfold Obligations.CapabilityWordsDescribeRecord
  intro s hP
  obtain ⟨hborderH, hborderV, hzpad, hsets, hzero0⟩ := cap0Word_fields hP
  obtain ⟨hsgr, hrst, hprj, hrecip, hmtable, hzero1, hzero2⟩ := cap1Word_fields hP
  obtain ⟨hwMax, hhMax⟩ := cap2Word_fields hP
  refine ⟨rfl, hborderH, hborderV, hzpad, hsets, hzero0, hsgr, hrst, hprj, hrecip, hmtable, hzero1, fun d h8 h12 => ?_,
    hzero2, hwMax, hhMax⟩
  rw [readReg, cap1Word_depth s.cfg h8 h12, List.contains_iff_mem]

/-- Settles O17: a width of 0 fails the geometry check of every record. -/
theorem resetStateIsIdle : Obligations.ResetStateIsIdle := by
  unfold Obligations.ResetStateIsIdle
  refine ⟨rfl, fun m n => ?_, rfl, by decide, fun P i hi hpass => ?_⟩
  · rcases m with (_ | _) | (_ | _ | _ | _ | _ | _) <;> rfl
  · obtain ⟨⟨hwidth, -⟩, -⟩ := geometryLegal_iff.1 (legal_of_accepted hi hpass).2
    exact absurd hwidth (by decide)

/-- Settles O26, by the bits of `STATUS` and `IRQ_EN`. -/
theorem statusAndInterruptLayout : Obligations.StatusAndInterruptLayout := by
  unfold Obligations.StatusAndInterruptLayout
  intro s
  obtain ⟨hbusy, hdone, herr, hdropped⟩ := statusWord_flags s
  obtain ⟨hlow, hcode, hhigh⟩ := statusWord_fields s
  obtain ⟨hdoneIe, herrIe⟩ := readReg_irqEn_bits s
  refine ⟨hbusy, hdone, herr, hdropped, hlow, hcode, hhigh, ?_⟩
  rw [hdoneIe, herrIe, readReg, hdone, herr, State.irq]

end Sys2Proof.Machine
end

section
/-! SUPPORT. A host access and a command's two steps: what a read can do, what a write can do while the block is busy, a cell
after a write through its aperture, and the step that runs a written or a pending command. -/

namespace Sys2Proof.Machine

open Sys2Proof.Config

section
variable {s : State} {a : BitVec 22} {rest : List HostEvent}

/-! What a word address reaches -/

/-- A word address inside the 12 MiB reaches a place of the block (R78). -/
theorem target_ne_outside (P : Params) (h : a.toNat < 12 * 2 ^ 18) : target P a ≠ .outside := by
  rcases target_cases P a with ⟨x, -, ht⟩ | ⟨-, -, ht⟩ | ⟨-, -, m, n, -, ht⟩ | ⟨-, -, v, ht⟩ | ⟨hout, -⟩
  case inr.inr.inr.inr => omega
  all_goals simp [ht]

/-- The registers and the apertures are no reserved offsets (R38, R39, R78). -/
theorem target_ne_reserved (P : Params) (h : a.toNat ≤ 18 ∨ 2 ^ 18 ≤ a.toNat) : target P a ≠ .reserved := by
  rcases target_cases P a with ⟨x, -, ht⟩ | ⟨hlo, hhi, -⟩ | ⟨-, -, m, n, -, ht⟩ | ⟨-, -, v, ht⟩ | ⟨-, ht⟩
  case inr.inl => omega
  all_goals simp [ht]

/-! What a host access can do -/

/-- A step in which the boundary acts on its own, with the head of the script past. -/
theorem step_boundary {e : HostEvent} {t : State} (hs : s.script = e :: rest) (h : nextAction s = .advance t)
    (kept : t.script = s.script) : step s = .next { t with script := rest } := by
  rw [step_advance h, State.retire, kept, hs, List.tail_cons]

/-- All a host read can do (R78, R81). -/
theorem hostRead_cases (a : BitVec 22) (s : State) :
    (target s.cfg a = .outside ∧ hostRead a s = .stop .outsideBlock) ∨
    ∃ word draws, hostRead a s = .advance { s with rdata := word, draws := draws } := by
  unfold hostRead
  cases target s.cfg a with
  | reg x => exact .inr ⟨readReg s x, s.draws, rfl⟩
  | reserved => exact .inr ⟨0, s.draws, rfl⟩
  | ram m n => exact .inr ⟨_, _, congrArg Action.advance (readRam_frame m n s)⟩
  | rom v => exact .inr ⟨v, s.draws, rfl⟩
  | outside => exact .inl ⟨rfl, rfl⟩

/-- Only a read outside the block stops it. -/
theorem hostRead_ne_stop (h : target s.cfg a ≠ .outside) (f : Fault) : hostRead a s ≠ .stop f := by
  rcases hostRead_cases a s with ⟨ht, -⟩ | ⟨word, draws, hread⟩
  · exact absurd ht h
  · simp [hread]

/-- All a host write can do while the block is busy (R39, R83, R263). -/
theorem hostWrite_busy_cases (hb : s.pending ≠ none) (a : BitVec 22) (v : Word) :
    (target s.cfg a = .outside ∧ hostWrite a v s = .stop .outsideBlock) ∨
    (target s.cfg a = .reserved ∧ hostWrite a v s = .advance s) ∨ hostWrite a v s = .advance (dropWrite s) := by
  rw [hostWrite_busy (Option.isSome_iff_ne_none.2 hb)]
  cases target s.cfg a with
  | outside => exact .inl ⟨rfl, rfl⟩
  | reserved => exact .inr (.inl ⟨rfl, rfl⟩)
  | reg | ram | rom => exact .inr (.inr rfl)

theorem writeCmd_ne_stop (w : Word) (s : State) (f : Fault) : writeCmd w s ≠ .stop f := by
  cases hd : decode w <;> simp [writeCmd, hd]

/-- Only a write outside the block stops it. -/
theorem hostWrite_ne_stop (h : target s.cfg a ≠ .outside) (v : Word) (f : Fault) : hostWrite a v s ≠ .stop f := by
  intro hstop
  unfold hostWrite at hstop
  split at hstop
  case h_1 ht => exact h ht
  case h_5 =>
    split at hstop
    · cases hstop
    · exact writeCmd_ne_stop v s f hstop
  all_goals cases hstop

/-! A cell through its aperture -/

/-- A host read of a RAM aperture of an idle block, at a cell that has a value (R80). -/
theorem step_read_cell {m : Ram} {n : Nat} {v : Word} (hs : s.script = .read a :: rest) (ht : target s.cfg a = .ram m n)
    (idle : s.pending = none) (hn : n < ramCells s.cfg m) (hv : ramWord s m n = some v) :
    step s = .next { s with rdata := v, script := rest } :=
  step_read hs (by simp [hostRead, ht, readRam, (busy_eq_false s).2 idle, hn, hv])

/-- A host read of a RAM aperture of an idle block beyond the memory's size (R78). -/
theorem step_read_beyond {m : Ram} {n : Nat} (hs : s.script = .read a :: rest) (ht : target s.cfg a = .ram m n)
    (idle : s.pending = none) (hn : ramCells s.cfg m ≤ n) : step s = .next { s with rdata := 0, script := rest } :=
  step_read hs (by simp [hostRead, ht, readRam, (busy_eq_false s).2 idle, Nat.not_lt.2 hn])

/-- A host read of a RAM aperture of a busy block (R83). -/
theorem readRam_busy (hb : s.pending ≠ none) (m : Ram) (n : Nat) :
    readRam m n s = { s with rdata := portDraw s m .port, draws := s.draws + 1 } :=
  if_pos (Option.isSome_iff_ne_none.2 hb)

theorem writeRam_frame (m : Ram) (n : Nat) (v : Word) (s : State) :
    writeRam m n v s =
      { s with src := (writeRam m n v s).src, dst := (writeRam m n v s).dst, gridC := (writeRam m n v s).gridC,
               gridD := (writeRam m n v s).gridD, gridA := (writeRam m n v s).gridA, gridB := (writeRam m n v s).gridB,
               flt0 := (writeRam m n v s).flt0, flt1 := (writeRam m n v s).flt1 } := by
  unfold writeRam
  split
  · rcases m with (_ | _) | (_ | _ | _ | _ | _ | _) <;> rfl
  · rfl

/-- No register shows what a memory holds. -/
theorem readReg_writeRam (m : Ram) (n : Nat) (v : Word) (s : State) (x : Reg) :
    readReg (writeRam m n v s) x = readReg s x := by
  rw [writeRam_frame]
  cases x <;> rfl

/-- No register shows what comes next at the boundary. -/
theorem readReg_retire (s : State) (x : Reg) : readReg s.retire x = readReg s x := by
  cases x <;> rfl

theorem ramWord_retire (s : State) (m : Ram) (n : Nat) : ramWord s.retire m n = ramWord s m n := by
  rcases m with (_ | _) | (_ | _ | _ | _ | _ | _) <;> rfl

end

/-! The two steps of a command -/

section
variable {s : State} {p : Pending} {i : Instr} {rest : List HostEvent}

/-- A pending command that acts runs its body on the snapshot and completes (R85). -/
theorem exec_pending (operation : isOperation i = true) (held : s.pending = some p) :
    exec i s = .next (complete (bodyOf i p.regs s)) := by
  rw [exec_operation operation, operation_pending held]

theorem sequencerTurn_pending (held : s.pending = some p) (decoded : decode p.word = some i)
    (operation : isOperation i = true) : sequencerTurn s = .run i := by
  simp [sequencerTurn, held, decoded, operation]

theorem nextAction_pending (held : s.pending = some p) (decoded : decode p.word = some i) (operation : isOperation i = true)
    (hs : s.script = [] ∨ ∃ rest, s.script = .grant :: rest) : nextAction s = .run i :=
  (nextAction_turn hs).trans (sequencerTurn_pending held decoded operation)

/-- The sequencer's turn of a busy block completes the held command (R85). -/
theorem step_pending (held : s.pending = some p) (decoded : decode p.word = some i) (operation : isOperation i = true)
    (hs : s.script = [] ∨ ∃ rest, s.script = .grant :: rest) : step s = .next (complete (bodyOf i p.regs s)).retire := by
  rw [step_run (nextAction_pending held decoded operation hs), exec_pending operation held, retireOutcome]

/-- A sound sequencer never stops: what it holds is an operation command (R84). -/
theorem sequencerTurn_ne_stop (h : pendingSound s = true) (f : Fault) : sequencerTurn s ≠ .stop f := by
  cases held : s.pending with
  | none => simp [sequencerTurn, held]
  | some p =>
    obtain ⟨i, decoded, operation, -⟩ := (pendingSound_some held).1 h
    simp [sequencerTurn_pending held decoded operation]

/-- A command step answers a next state, so only the boundary can stop the block. -/
theorem step_next_of_ne_stop (h : ∀ f, nextAction s ≠ .stop f) : ∃ t, step s = .next t := by
  cases ha : nextAction s with
  | run i =>
    obtain ⟨t, ht⟩ := exec_next i s
    exact ⟨t.retire, by rw [step_run ha, ht, retireOutcome]⟩
  | advance t => exact ⟨t.retire, step_advance ha⟩
  | stop f => exact absurd ha (h f)

end

/-! The statements -/

/-- Settles O4: the write's action is the decoded command's. -/
theorem stepRunsWrittenCommand : Obligations.StepRunsWrittenCommand := by
  unfold Obligations.StepRunsWrittenCommand
  intro s w i rest idle hs decoded
  have hrun : writeCmd w s = .run i := by simp [writeCmd, decoded]
  exact step_run ((nextAction_write hs).trans ((hostWrite_cmd idle w).trans hrun))

/-- Settles O5: a grant and an empty script are both the sequencer's turn. -/
theorem stepRunsPendingCommand : Obligations.StepRunsPendingCommand := by
  unfold Obligations.StepRunsPendingCommand
  intro s p i held decoded operation hs
  exact step_run (nextAction_pending held decoded operation hs)

/-- Settles O6: the acceptance holds the command's own encoding, which decodes to the command again at the sequencer's turn. -/
theorem commandRunsInTwoSteps : Obligations.CommandRunsInTwoSteps := by
  unfold Obligations.CommandRunsInTwoSteps
  intro s i rest operation hwf idle herr hpass hs
  have decoded : decode (encode i) = some i := decode_encode hwf
  have haccept := stepRunsWrittenCommand s (encode i) i _ idle hs decoded
  rw [exec_accepted operation idle herr hpass, retireOutcome, State.retire, hs, List.tail_cons] at haccept
  exact ⟨_, _, haccept, rfl, exec_pending operation rfl, step_pending rfl decoded operation (.inr ⟨rest, rfl⟩), rfl, rfl⟩

/-- Settles O7: the invariant gives the held command, whose body leaves `ERR` and the operand registers. -/
theorem pendingCommandCompletes : Obligations.PendingCommandCompletes := by
  unfold Obligations.PendingCommandCompletes
  rintro s ⟨-, -, -, hpend⟩ hb hs
  obtain ⟨p, held⟩ := (busy_eq_true s).1 hb
  obtain ⟨i, decoded, operation, -, -, -, herr⟩ := (pendingSound_some held).1 hpend
  have hstep := step_pending held decoded operation (.inl hs)
  rw [bodyOf_onlyResultsDiffer] at hstep
  exact ⟨_, hstep, rfl, rfl, herr, rfl⟩

/-- Settles O12: a register or an aperture is neither reserved nor outside the block, so the write is dropped. -/
theorem busyWriteDropped : Obligations.BusyWriteDropped := by
  unfold Obligations.BusyWriteDropped
  intro s a v rest hb hs hplace hinside
  rcases hostWrite_busy_cases hb a v with ⟨ht, -⟩ | ⟨ht, -⟩ | hdrop
  · exact absurd ht (target_ne_outside s.cfg hinside)
  · exact absurd ht (target_ne_reserved s.cfg hplace)
  · exact step_boundary hs ((nextAction_write hs).trans hdrop) rfl

/-- Settles O20: the write is `writeRam`, and the read returns what the written cell then holds. -/
theorem cellWriteReadsBack : Obligations.CellWriteReadsBack := by
  unfold Obligations.CellWriteReadsBack
  intro s m n v rest idle hn hn18 hs
  have hwrite := step_write hs (hostWrite_ram idle m hn18 v)
  have hcell := ramWord_writeRam s m hn v
  have hcfg : (writeRam m n v s).retire.cfg = s.cfg := writeRam_cfg m n v s
  have hidle : (writeRam m n v s).retire.pending = none := by
    rw [writeRam_frame]
    exact idle
  have hscript : (writeRam m n v s).retire.script = .read (busAddress (ramBase m + 4 * n)) :: rest := by
    rw [writeRam_frame, retire_script]
    simp [hs]
  have hread := step_read_cell hscript (target_ram _ m hn18) hidle (hcfg ▸ hn)
    ((ramWord_retire _ m n).trans ((hcell m n).trans (if_pos ⟨rfl, rfl⟩)))
  refine ⟨_, _, hwrite, hread, rfl, ?_, fun m' n' hne => ?_, fun x => ?_, hidle, hcfg⟩
  · cases m <;> rfl
  · rw [ramWord_retire, hcell, if_neg (by simpa using hne)]
  · rw [readReg_retire, readReg_writeRam]

/-- Settles O21: no read has another effect, and none inside the block stops it. -/
theorem readHasNoSideEffect : Obligations.ReadHasNoSideEffect := by
  unfold Obligations.ReadHasNoSideEffect
  intro s a rest hs hinside
  rcases hostRead_cases a s with ⟨ht, -⟩ | ⟨word, draws, hread⟩
  · exact absurd ht (target_ne_outside s.cfg hinside)
  · exact ⟨_, step_boundary hs ((nextAction_read hs).trans hread) rfl, rfl⟩

/-- Settles O22: the busy read comes before the size of the memory and the cell. -/
theorem busyRamReadIsFree : Obligations.BusyRamReadIsFree := by
  unfold Obligations.BusyRamReadIsFree
  intro s a rest m n hb hs ht
  have hread : hostRead a s = .advance (readRam m n s) := by simp [hostRead, ht]
  rw [readRam_busy hb] at hread
  refine ⟨_, step_boundary hs ((nextAction_read hs).trans hread) rfl, rfl, ?_⟩
  cases m <;> rfl

/-- Settles O24: the cell's value as the port returns it is `ramWord`. -/
theorem idleRamReadReturnsCell : Obligations.IdleRamReadReturnsCell := by
  unfold Obligations.IdleRamReadReturnsCell
  intro s m n rest idle hn18 hs
  have ht := target_ram s.cfg m hn18
  refine ⟨fun v hn hv => step_read_cell hs ht idle hn ?_, step_read_beyond hs ht idle⟩
  rw [← hv]
  rcases m with (_ | _) | (_ | _ | _ | _ | _ | _) <;> rfl

/-- Settles O53: neither the sequencer's turn of a sound block nor a host access inside the block stops it. -/
theorem soundStepNeverStops : Obligations.SoundStepNeverStops := by
  unfold Obligations.SoundStepNeverStops
  rintro s ⟨-, -, -, hpend⟩ hinside
  refine step_next_of_ne_stop fun f => ?_
  cases hs : s.script with
  | nil =>
    rw [nextAction_turn (.inl hs)]
    exact sequencerTurn_ne_stop hpend f
  | cons e rest =>
    cases e with
    | grant =>
      rw [nextAction_turn (.inr ⟨rest, hs⟩)]
      exact sequencerTurn_ne_stop hpend f
    | rst => simp [nextAction_rst hs]
    | read a =>
      have ha : a.toNat < 12 * 2 ^ 18 := by simpa [insideBlock, hs] using hinside
      rw [nextAction_read hs]
      exact hostRead_ne_stop (target_ne_outside s.cfg ha) f
    | write a v =>
      have ha : a.toNat < 12 * 2 ^ 18 := by simpa [insideBlock, hs] using hinside
      rw [nextAction_write hs]
      exact hostWrite_ne_stop (target_ne_outside s.cfg ha) v f

/-- Settles O54: a read changes the port's data and the draws, and a write at most `DROPPED`. -/
theorem busyBlockIsIsolated : Obligations.BusyBlockIsIsolated := by
  unfold Obligations.BusyBlockIsIsolated
  intro s t e rest hb hs hgrant hrst hstep
  cases e with
  | grant => exact absurd rfl hgrant
  | rst => exact absurd rfl hrst
  | read a =>
    rcases hostRead_cases a s with ⟨-, hstop⟩ | ⟨word, draws, hread⟩
    · simp [step, nextAction_read hs, hstop] at hstep
    · rw [step_boundary hs ((nextAction_read hs).trans hread) rfl] at hstep
      cases hstep
      rfl
  | write a v =>
    rcases hostWrite_busy_cases hb a v with ⟨-, hstop⟩ | ⟨-, hkept⟩ | hdrop
    · simp [step, nextAction_write hs, hstop] at hstep
    · rw [step_write_discarded hs hkept] at hstep
      cases hstep
      rfl
    · rw [step_boundary hs ((nextAction_write hs).trans hdrop) rfl] at hstep
      cases hstep
      rfl

end Sys2Proof.Machine
end

section
/-! SUPPORT. A command word and its fields: a word that decodes is the encoding of its command, and a row of the table accepts a word
by its opcode, its field `rsv` and the must-be-zero bits of its operand byte. -/

namespace Sys2Proof.Machine

section
variable {w : Word} {row : EncodingRow} {i : Instr}

/-! A word comes back from its command -/

theorem bit_slotField (w : Word) : (slotField w).bit = w &&& 0x1#32 := by
  rw [BitVec.and_one_eq_setWidth_ofBool_getLsbD, slotField]
  cases w.getLsbD 0 <;> rfl

theorem bit_channelField (w : Word) : (channelField w).bit = w &&& 0x1#32 := by
  rw [BitVec.and_one_eq_setWidth_ofBool_getLsbD, channelField]
  cases w.getLsbD 0 <;> rfl

/-- The radius at its place in the operand byte is bits [7:4] of the word (R113). -/
theorem ofNat_radiusField (w : Word) : BitVec.ofNat 32 (radiusField w % 16 * 16) = w &&& 0xF0#32 := by
  have hfield : BitVec.ofNat 32 (radiusField w % 16 * 16) = (w.extractLsb' 4 4).setWidth 32 <<< 4 := by
    apply BitVec.eq_of_toNat_eq
    simp [radiusField, Nat.shiftLeft_eq]
  rw [hfield]
  apply BitVec.eq_of_getLsbD_eq
  intro i hi
  interval_cases i <;> simp

/-- The command that a row builds from a word keeps every bit of the word that the row's mask leaves open. -/
theorem encode_build (w : Word) : ∀ row ∈ encodingTable, encode (row.build w) = row.pattern ||| (w &&& ~~~row.mask) := by
  simp [encodingTable, encode, bit_slotField, bit_channelField, ofNat_radiusField, BitVec.or_assoc, ← BitVec.and_or_distrib_left]

theorem encode_of_decode (h : decode w = some i) : encode i = w := by
  simp only [decode, Option.map_eq_some_iff] at h
  obtain ⟨row, hfind, rfl⟩ := h
  have hmatch : w &&& row.mask = row.pattern := by simpa using List.find?_some hfind
  calc encode (row.build w)
      = row.pattern ||| (w &&& ~~~row.mask) := encode_build w row (List.mem_of_find?_eq_some hfind)
    _ = (w &&& row.mask) ||| (w &&& ~~~row.mask) := by rw [hmatch]
    _ = w := by rw [← BitVec.and_or_distrib_left, BitVec.or_not_self, BitVec.and_allOnes]

/-! Which words are illegal -/

/-- A word is its opcode, its field `rsv` and its operand byte (R111). -/
theorem word_eq_iff_fields (w v : Word) : w = v ↔
    opcodeField w = opcodeField v ∧ w.extractLsb' 8 16 = v.extractLsb' 8 16 ∧ w.extractLsb' 0 8 = v.extractLsb' 0 8 := by
  refine ⟨by rintro rfl; exact ⟨rfl, rfl, rfl⟩, ?_⟩
  simp only [opcodeField, ← BitVec.toNat_inj, toNat_field]
  omega

/-- The lowest must-be-zero bit of the operand byte and how many there are: [3:1] in form `Q`, [7:1] in form `K`, the whole byte
where the opcode has no operand (R113). -/
def mustBeZero (opcode : BitVec 8) : Nat × Nat :=
  if opcode.toNat = 2 then (1, 3) else if 3 ≤ opcode.toNat ∧ opcode.toNat ≤ 6 then (1, 7) else (0, 8)

theorem mustBeZero_le (opcode : BitVec 8) : (mustBeZero opcode).1 + (mustBeZero opcode).2 ≤ 8 := by
  unfold mustBeZero
  split_ifs <;> decide

/-- The operand byte's mask of `len` bits from the bit `start`. -/
def operandMask (start len : Nat) : BitVec 8 :=
  (BitVec.allOnes len).setWidth 8 <<< start

theorem operandByte_and_mask_eq_zero_iff (w : Word) {start len : Nat} (h : start + len ≤ 8) :
    w.extractLsb' 0 8 &&& operandMask start len = 0 ↔ w.extractLsb' start len = 0 := by
  simp only [operandMask, BitVec.eq_of_getLsbD_eq_iff, BitVec.getLsbD_and, BitVec.getLsbD_shiftLeft, BitVec.getLsbD_setWidth,
    BitVec.getLsbD_allOnes, BitVec.getLsbD_extractLsb', BitVec.ofNat_eq_ofNat, BitVec.getLsbD_zero]
  constructor
  · intro hmasked i hi
    simpa [hi, show start + i < 8 by omega, show i < 8 by omega] using hmasked (start + i) (by omega)
  · intro hfield i hi
    by_cases hin : start ≤ i ∧ i - start < len
    · have hbit : w.getLsbD i = false := by
        simpa [hin.2, Nat.add_sub_cancel' hin.1] using hfield (i - start) hin.2
      simp [hbit]
    · have hmask : ¬start ≤ i ∨ ¬i - start < len := not_and_or.1 hin
      rcases hmask with h | h <;> simp [h]

/-- The table of R117 by the fields of R111: a mask holds the opcode, `rsv` and the must-be-zero bits, and a pattern is an opcode. -/
theorem fields_of_row : ∀ row ∈ encodingTable,
    (opcodeField row.mask = BitVec.allOnes 8 ∧ row.mask.extractLsb' 8 16 = BitVec.allOnes 16 ∧
      row.mask.extractLsb' 0 8 = operandMask (mustBeZero (opcodeField row.pattern)).1 (mustBeZero (opcodeField row.pattern)).2) ∧
    row.pattern.extractLsb' 8 16 = 0 ∧ row.pattern.extractLsb' 0 8 = 0 := by
  decide

/-- The must-be-zero bits of a word's operand byte are 0 (R113, R115). -/
def OperandBitsLegal (w : Word) : Prop :=
  w.extractLsb' (mustBeZero (opcodeField w)).1 (mustBeZero (opcodeField w)).2 = 0

theorem row_accepts_iff (hrow : row ∈ encodingTable) : w &&& row.mask = row.pattern ↔
    opcodeField w = opcodeField row.pattern ∧ w.extractLsb' 8 16 = 0 ∧ OperandBitsLegal w := by
  obtain ⟨⟨hopcode, hrsv, hoperand⟩, hrsv0, hoperand0⟩ := fields_of_row row hrow
  have opcode_kept : opcodeField (w &&& row.mask) = opcodeField w := by
    rw [opcodeField, BitVec.extractLsb'_and, ← opcodeField, ← opcodeField, hopcode, BitVec.and_allOnes]
  have rsv_kept : (w &&& row.mask).extractLsb' 8 16 = w.extractLsb' 8 16 := by
    rw [BitVec.extractLsb'_and, hrsv, BitVec.and_allOnes]
  rw [word_eq_iff_fields, opcode_kept, rsv_kept, hrsv0, BitVec.extractLsb'_and, hoperand, hoperand0,
    operandByte_and_mask_eq_zero_iff w (mustBeZero_le _)]
  refine and_congr_right fun h => ?_
  rw [OperandBitsLegal, h]

/-- The opcodes of the table are those outside 0x0A..0xFD (R112, R115). -/
theorem opcode_listed_iff (opcode : BitVec 8) :
    (∃ row ∈ encodingTable, opcode = opcodeField row.pattern) ↔ ¬(0x0A ≤ opcode.toNat ∧ opcode.toNat ≤ 0xFD) := by
  have hlist : encodingTable.map (fun row => opcodeField row.pattern) = [0, 1, 2, 3, 4, 5, 6, 7, 8, 9, 0xFE, 0xFF] := by decide
  have hmem : (∃ row ∈ encodingTable, opcode = opcodeField row.pattern) ↔
      opcode ∈ encodingTable.map (fun row => opcodeField row.pattern) := by simp [eq_comm]
  rw [hmem, hlist]
  simp only [List.mem_cons, List.not_mem_nil, or_false]
  bv_omega

theorem decode_eq_none_iff : decode w = none ↔
    (0x0A ≤ (opcodeField w).toNat ∧ (opcodeField w).toNat ≤ 0xFD) ∨ w.extractLsb' 8 16 ≠ 0 ∨ ¬OperandBitsLegal w := by
  have hlegal : (∃ row ∈ encodingTable, w &&& row.mask = row.pattern) ↔
      (∃ row ∈ encodingTable, opcodeField w = opcodeField row.pattern) ∧ w.extractLsb' 8 16 = 0 ∧ OperandBitsLegal w := by
    constructor
    · rintro ⟨row, hrow, h⟩
      obtain ⟨hopcode, hfields⟩ := (row_accepts_iff hrow).1 h
      exact ⟨⟨row, hrow, hopcode⟩, hfields⟩
    · rintro ⟨⟨row, hrow, hopcode⟩, hfields⟩
      exact ⟨row, hrow, (row_accepts_iff hrow).2 ⟨hopcode, hfields⟩⟩
  have hnone : decode w = none ↔ ¬∃ row ∈ encodingTable, w &&& row.mask = row.pattern := by simp [decode]
  rw [hnone, hlegal, opcode_listed_iff]
  tauto

theorem not_operandBitsLegal_iff : ¬OperandBitsLegal w ↔
    if (opcodeField w).toNat = 2 then w.extractLsb' 1 3 ≠ 0
    else if 3 ≤ (opcodeField w).toNat ∧ (opcodeField w).toNat ≤ 6 then w.extractLsb' 1 7 ≠ 0
    else w.extractLsb' 0 8 ≠ 0 := by
  unfold OperandBitsLegal
  split_ifs with hQ hK
  · rw [show mustBeZero (opcodeField w) = (1, 3) from if_pos hQ]
  · rw [show mustBeZero (opcodeField w) = (1, 7) from (if_neg hQ).trans (if_pos hK)]
  · rw [show mustBeZero (opcodeField w) = (0, 8) from (if_neg hQ).trans (if_neg hK)]

/-! The refusal -/

/-- An illegal word that reaches the checks enters the error state (R252, R264). -/
theorem refuseIllegal_checked {s : State} (h : s.err = false ∨ opcodeField w = 0xFE ∨ opcodeField w = 0xFF) :
    refuseIllegal w s = raiseError .illegalCmd w s := by
  rcases h with h | h | h <;> simp [refuseIllegal, h]

end

/-! The statements -/

/-- Settles O1: a decoded command is well formed and encodes to its word, and a well-formed command decodes from its encoding. -/
theorem decodeAgreesWithEncode : Obligations.DecodeAgreesWithEncode := by
  unfold Obligations.DecodeAgreesWithEncode
  intro w i
  constructor
  · intro h
    exact ⟨wellFormed_of_decode h, (encode_of_decode h).symm⟩
  · rintro ⟨hwf, rfl⟩
    exact decode_encode hwf

/-- Settles O2: the rows accept by the fields of R111, and the write of a word that no row accepts is error entry. -/
theorem illegalWordRefused : Obligations.IllegalWordRefused := by
  unfold Obligations.IllegalWordRefused
  intro w
  refine ⟨decode_eq_none_iff.trans (or_congr_right (or_congr_right not_operandBitsLegal_iff)), ?_⟩
  intro s rest idle checked hs illegal
  have hwrite : writeCmd w s = .advance (raiseError .illegalCmd w s) := by
    simp [writeCmd, illegal, refuseIllegal_checked checked]
  exact step_boundary hs ((nextAction_write hs).trans ((hostWrite_cmd idle w).trans hwrite)) rfl

/-- Settles O3: the legal words are encodings, and each illegal word breaks one clause of R115. -/
theorem tableWordsDecode : Obligations.TableWordsDecode := by
  unfold Obligations.TableWordsDecode
  have legal (i : Instr) (h : i.wellFormed = true) : decode (encode i) = some i := decode_encode h
  have reservedOpcode : decode 0x0A000000 = none := decode_eq_none_iff.2 (.inl (by decide))
  have reservedField : decode 0x08000100 = none := decode_eq_none_iff.2 (.inr (.inl (by decide)))
  have operandBit (w : Word) (h : w.extractLsb' (mustBeZero (opcodeField w)).1 (mustBeZero (opcodeField w)).2 ≠ 0) :
      decode w = none := decode_eq_none_iff.2 (.inr (.inr h))
  exact ⟨legal .nop rfl, legal .buildII rfl, legal (.boxsum .squares 2) rfl, legal (.calcAb .slot1) rfl,
    legal (.calcAbFast .slot0) rfl, legal (.finalFilter .slot1) rfl, legal (.finalFilterFast .slot0) rfl, legal .blend rfl,
    legal .restore rfl, legal .apply rfl, legal .clr rfl, legal .srst rfl,
    operandBit _ (by decide), operandBit _ (by decide), reservedOpcode, reservedField, operandBit _ (by decide)⟩

end Sys2Proof.Machine
end

section
/-! SUPPORT. The integral image builder and the box sum on its images (R140 to R148, R160 to R164): the scan-order account `Built` of the
whole command, read off as what the images hold, what the strip holds and what no write touches. -/

namespace Sys2Proof.Machine

open Sys2Proof.Config

section
variable {s : State} {r : OperandRegs}

/-- The builder's whole scan under the geometry check, whose stride condition keeps its cells apart (R25, R254). -/
theorem built_buildImages (hg : geometryLegal s.cfg r = true) :
    ∃ u, Built s r (heightExt s.cfg r + 1) 0 u ∧ buildImages r s = u.nextDraws := by
  obtain ⟨-, -, -, hstride, -⟩ := geometryLegal_iff.1 hg
  exact built_images hstride

/-- The images of the bordered plane and of its squares, whatever `C` and `D` held before (R141). -/
theorem holdsImages_buildImages (hg : geometryLegal s.cfg r = true) : holdsImages (buildImages r s) r (planeSample s r) := by
  obtain ⟨u, hb, hu⟩ := built_buildImages hg
  intro y x hy hx
  rw [hu, nextDraws_cfg, hb.cfg] at hy hx
  rw [hu]
  exact hb.images y x hx (.inl (by omega))

/-- The zero strip to the right of both images (R145). -/
theorem get?_buildImages_strip (hg : geometryLegal s.cfg r = true) {y x : Nat} (hy : y ≤ heightExt s.cfg r)
    (hstrip : widthExt s.cfg r < x) (hx : x ≤ widthExt s.cfg r + s.cfg.zpad) :
    Memory.get? (buildImages r s).gridC (iiAddr r y x) = some 0 ∧
    Memory.get? (buildImages r s).gridD (iiAddr r y x) = some 0 := by
  obtain ⟨u, hb, hu⟩ := built_buildImages hg
  rw [hu]
  exact (hb.strip y x hstrip hx (.inl (by omega))).symm

/-- A cell of `C` or `D` outside the footprint is unchanged (R147). -/
theorem get?_buildImages_outside (hg : geometryLegal s.cfg r = true) {a : Nat}
    (ha : ∀ y x, y ≤ heightExt s.cfg r → x ≤ widthExt s.cfg r + s.cfg.zpad → iiAddr r y x ≠ a) :
    Memory.get? (buildImages r s).gridC a = Memory.get? s.gridC a ∧
    Memory.get? (buildImages r s).gridD a = Memory.get? s.gridD a := by
  obtain ⟨u, hb, hu⟩ := built_buildImages hg
  rw [hu]
  exact hb.outside a ha

/-- `BUILD_II` is one stage of draws (R42). -/
@[simp] theorem buildImages_draws (r : OperandRegs) (s : State) : (buildImages r s).draws = s.draws + 1 :=
  congrArg State.draws (buildImages_frame r s)

/-- The plane whose image a channel selects: the samples themselves, or their squares (R162). -/
def channelPlane (f : Nat → Nat → Nat) : Channel → Nat → Nat → Nat
  | .sums => f
  | .squares => fun py px => f py px ^ 2

/-- On the images of a plane the box sum of a channel is the window sum of that channel's plane (R148, R164). -/
theorem boxSum_of_holdsImages {f : Nat → Nat → Nat} {site : Nat} {i j : Int} {rad : Nat} (himg : holdsImages s r f)
    (ch : Channel) (hq : inContract s.cfg r i j rad = true) :
    s.boxSum r (channelGrid ch) site i j rad = BitVec.ofNat 32 (windowSum s.cfg (channelPlane f ch) i j rad) := by
  refine boxSum_of_images (fun y x hy hx => ?_) hq
  obtain ⟨hD, hC⟩ := himg y x hy hx
  cases ch with
  | sums => exact hD
  | squares => exact hC

/-- An in-contract query leaves the box sum in `RESULT` (R162). -/
theorem boxSumQuery_result {rad : Nat} (ch : Channel) (hq : inContract s.cfg r r.qy.toInt r.qx.toInt rad = true) :
    (boxSumQuery ch rad r s).result = s.boxSum r (channelGrid ch) 0 r.qy.toInt r.qx.toInt rad := by
  simp [boxSumQuery, hq]

end

/-- Settles O27: the builder's whole scan holds the images, and completion touches neither of them. -/
theorem buildIIGivesPrefixSums : Obligations.BuildIIGivesPrefixSums := by
  unfold Obligations.BuildIIGivesPrefixSums
  intro s p held hg
  exact ⟨_, exec_pending rfl held, holdsImages_buildImages hg⟩

/-- Settles O28: the builder's frame over the state, then its strip and its footprint over `C` and `D`. -/
theorem buildIIFootprint : Obligations.BuildIIFootprint := by
  unfold Obligations.BuildIIFootprint
  intro s p held hg
  refine ⟨complete (buildImages p.regs s), exec_pending rfl held, ?frame, ?strip, ?outside⟩
  case frame =>
    rw [complete_draws, buildImages_draws]
    exact congrArg complete (buildImages_frame p.regs s)
  case strip => exact fun y x hy hstrip hx => get?_buildImages_strip hg hy hstrip hx
  case outside => exact fun a ha => get?_buildImages_outside hg ha

/-- Settles O30: the query reads the channel's image, whose four corners give the window sum. -/
theorem boxSumIsWindowSum : Obligations.BoxSumIsWindowSum := by
  unfold Obligations.BoxSumIsWindowSum
  intro s p ch rad f held himg hq
  refine ⟨_, exec_pending rfl held, ?_⟩
  have hresult := (boxSumQuery_result ch hq).trans (boxSum_of_holdsImages himg ch hq)
  cases ch <;> exact hresult

end Sys2Proof.Machine
end

section
/-! SUPPORT. The box-sum accessor's contract (R160 to R163): what a query leaves in `RESULT` on each side of the contract, and that the
coefficient engine's queries keep inside it (R257). -/

namespace Sys2Proof.Machine

open Sys2Proof.Config

section
variable {s : State} {r : OperandRegs} {rad : Nat}

/-- The four edges of R161. -/
theorem inContract_iff {P : Params} {i j : Int} : inContract P r i j rad = true ↔
    -(P.borderV : Int) ≤ i - rad ∧ i + rad ≤ (r.height.toNat : Int) + P.borderV - 1 ∧
    -(P.borderH : Int) ≤ j - rad ∧ j + rad ≤ (r.width.toNat : Int) + P.borderH - 1 := by
  simp [inContract, and_assoc]

/-- The memory a channel reads (R162). -/
theorem grid_channelGrid (ch : Channel) (s : State) :
    s.grid (channelGrid ch) = if ch = .sums then s.gridD else s.gridC := by
  cases ch <;> rfl

/-- A written cell reads as its value, with no draw (R42). -/
theorem readGrid_of_get? {g : Grid} {a site : Nat} {v : Word} (h : Memory.get? (s.grid g) a = some v) :
    s.readGrid g a site = v := by
  simp [State.readGrid, h]

/-- The box sum of four written corners (R160). -/
theorem boxSum_of_corners {g : Grid} {site : Nat} {i j : Int} {br bl tr tl : Word}
    (hbr : Memory.get? (s.grid g) (posAddr s.cfg r (i + rad) (j + rad)) = some br)
    (hbl : Memory.get? (s.grid g) (posAddr s.cfg r (i + rad) (j - rad - 1)) = some bl)
    (htr : Memory.get? (s.grid g) (posAddr s.cfg r (i - rad - 1) (j + rad)) = some tr)
    (htl : Memory.get? (s.grid g) (posAddr s.cfg r (i - rad - 1) (j - rad - 1)) = some tl) :
    s.boxSum r g site i j rad = br - bl - tr + tl := by
  simp only [State.boxSum, State.at, readGrid_of_get? hbr, readGrid_of_get? hbl, readGrid_of_get? htr, readGrid_of_get? htl]

/-- An out-of-contract query leaves a draw in `RESULT` (R163). -/
theorem boxSumQuery_result_free (ch : Channel) (hq : ¬inContract s.cfg r r.qy.toInt r.qx.toInt rad = true) :
    (boxSumQuery ch rad r s).result = draw s.draws .boxsum :=
  if_neg hq

/-- A pending `BOXSUM` completes, in contract or not, and writes no more than `RESULT` and the draw counter (R162, R163). -/
theorem exec_boxsum_pending {p : Pending} (ch : Channel) (held : s.pending = some p) : exec (.boxsum ch rad) s =
    .next { s with result := (boxSumQuery ch rad p.regs s).result, draws := s.draws + 1, pending := none, done := true } :=
  exec_pending rfl held

end

/-- Settles O29: the in-contract query is the box sum of the selected image, whose four corners are written. -/
theorem boxSumFromFourCorners : Obligations.BoxSumFromFourCorners := by
  unfold Obligations.BoxSumFromFourCorners
  intro s p ch rad br bl tr tl held i j m htop hbottom hleft hright hbr hbl htr htl
  have hq : inContract s.cfg p.regs i j rad = true := inContract_iff.2 ⟨htop, hbottom, hleft, hright⟩
  have hm : m = s.grid (channelGrid ch) := (grid_channelGrid ch s).symm
  rw [hm] at hbr hbl htr htl
  rw [exec_boxsum_pending ch held, boxSumQuery_result ch hq, boxSum_of_corners hbr hbl htr htl]

/-- Settles O31: a window past any edge of the bordered plane fails the contract. -/
theorem boxSumOutOfContractIsFree : Obligations.BoxSumOutOfContractIsFree := by
  unfold Obligations.BoxSumOutOfContractIsFree
  intro s p ch rad held hpast
  have hq : ¬inContract s.cfg p.regs p.regs.qy.toInt p.regs.qx.toInt rad = true := by
    rw [inContract_iff]
    omega
  rw [exec_boxsum_pending ch held, boxSumQuery_result_free ch hq]

/-- Settles O35: the window reaches one position past the unit on each side, so a radius below both borders stays inside them; radius
0 does because no legal border is 0. -/
theorem estimatorQueriesInContract : Obligations.EstimatorQueriesInContract := by
  unfold Obligations.EstimatorQueriesInContract
  intro P r rad i j hP hrad htop hbottom hleft hright
  obtain ⟨⟨hborderH, -⟩, ⟨hborderV, -⟩, -⟩ := hP
  have hbelow : rad < P.borderH ∧ rad < P.borderV := by
    obtain rfl | hbelow := radiusLegal_iff.1 hrad
    · exact ⟨hborderH, hborderV⟩
    · exact hbelow
  rw [inContract_iff]
  omega

end Sys2Proof.Machine
end

section
/-! SUPPORT. The coefficient engine over the natural numbers (R171 to R178): each stage once with its wraps, and once exact where
nothing wraps; then what legal tables and the sums of window samples make exact. -/

namespace Sys2Proof.Machine

open Sys2Proof.Config

/-! Each stage with its wraps, for all operands -/

/-- A difference of integers as a word (R10). -/
theorem ofInt_sub (x y : Int) : BitVec.ofInt 32 (x - y) = BitVec.ofInt 32 x - BitVec.ofInt 32 y := by
  rw [Int.sub_eq_add_neg, BitVec.ofInt_add, BitVec.ofInt_neg, ← BitVec.sub_eq_add_neg]

section
variable (P : Params) (n : Nat) (strength sum1 sum2 : Word)

/-- The slope is the table's entry, widened with zeros (R175). -/
theorem slope_toNat (z : Nat) : (slope P z).toNat = (P.romXbx.getD z 0).toNat :=
  BitVec.toNat_setWidth_of_le (by decide)

/-- The index product and its rounding, each modulo 2^32 (R174). -/
theorem tableIndex_eq (p : Word) : tableIndex P p strength =
    min ((p.toNat * strength.toNat % 2 ^ 32 + 2 ^ P.mtableBits / 2) % 2 ^ 32 / 2 ^ P.mtableBits) 255 := by
  rw [tableIndex, roundShiftU_toNat, BitVec.toNat_mul, zMax]

/-- The noise estimate at 8 bits, a difference modulo 2^32 (R173). -/
theorem noiseEstimate_eight_toNat :
    (noiseEstimate 8 n sum1 sum2).toNat = (((n * sum2.toNat : Int) - sum1.toNat * sum1.toNat) % 2 ^ 32).toNat := by
  have hword : noiseEstimate 8 n sum1 sum2 = BitVec.ofInt 32 ((n * sum2.toNat : Int) - sum1.toNat * sum1.toNat) := by
    simp [noiseEstimate, ofInt_sub, BitVec.ofInt_mul]
  rw [hword, BitVec.toNat_ofInt]
  rfl

/-- The noise estimate at another depth: both sums rounded to 8-bit scale, and the max that keeps the difference from going
negative (R173). -/
theorem noiseEstimate_rounded_toNat {depth : Nat} (hdepth : depth ≠ 8) :
    (noiseEstimate depth n sum1 sum2).toNat =
      max ((roundShiftU sum2 (2 * (depth - 8))).toNat * n % 2 ^ 32)
          ((roundShiftU sum1 (depth - 8)).toNat * (roundShiftU sum1 (depth - 8)).toNat % 2 ^ 32) -
        (roundShiftU sum1 (depth - 8)).toNat * (roundShiftU sum1 (depth - 8)).toNat % 2 ^ 32 := by
  rw [noiseEstimate, if_neg hdepth]
  simp only [BitVec.le_def, BitVec.toNat_mul, BitVec.toNat_ofNat, Nat.mul_mod_mod]
  split
  case isTrue hle =>
    rw [max_eq_left hle, BitVec.toNat_sub_of_le (by simpa [BitVec.le_def] using hle)]
    simp
  case isFalse hlt =>
    rw [max_eq_right (by omega)]
    simp

/-- The intercept with its products and its rounding, each modulo 2^32 (R176). -/
theorem intercept_toNat (a : Word) : (intercept P n a sum1).toNat =
    (((((2 ^ P.sgrBits : Int) - a.toNat) * (P.romRecip.getD (n - 1) 0).toNat % 2 ^ 32).toNat * sum1.toNat % 2 ^ 32 +
      2 ^ P.recipBits / 2) % 2 ^ 32) / 2 ^ P.recipBits := by
  have hword : (BitVec.ofNat 32 P.sgr - a) * (recipEntry P n).setWidth 32 =
      BitVec.ofInt 32 (((2 ^ P.sgrBits : Int) - a.toNat) * (P.romRecip.getD (n - 1) 0).toNat) := by
    have hsgr : BitVec.ofInt 32 (2 ^ P.sgrBits) = BitVec.ofNat 32 P.sgr := by
      rw [Params.sgr, ← BitVec.ofInt_natCast]
      push_cast
      rfl
    have hrecip : BitVec.ofInt 32 ((P.romRecip.getD (n - 1) 0).toNat) = (recipEntry P n).setWidth 32 := by
      rw [BitVec.ofInt_natCast, BitVec.ofNat_toNat]
      rfl
    rw [BitVec.ofInt_mul, ofInt_sub, hsgr, hrecip]
    simp
  rw [intercept, roundShiftU_toNat, hword, BitVec.toNat_mul, BitVec.toNat_ofInt]
  rfl

end

section
variable (P : Params) (depth rad : Nat) (strength sum1 sum2 : Word)

/-- The pair's slope is the table's entry at the index of the noise estimate (R178). -/
theorem coefficients_fst_toNat : (coefficients P depth rad strength sum1 sum2).1.toNat =
    (P.romXbx.getD (tableIndex P (noiseEstimate depth (windowCount rad) sum1 sum2) strength) 0).toNat :=
  slope_toNat P _

/-- The pair's intercept is computed from its slope and the raw sum (R176, R178). -/
theorem coefficients_snd : (coefficients P depth rad strength sum1 sum2).2 =
    intercept P (windowCount rad) (coefficients P depth rad strength sum1 sum2).1 sum1 := rfl

end

/-! Each stage where nothing wraps -/

/-- The rounding shift of R11 over the natural numbers. -/
def roundShift (x k : Nat) : Nat := (x + 2 ^ k / 2) / 2 ^ k

/-- The noise estimate of R173 over the natural numbers; at depth 8 the shifts are by 0. -/
def scaledNoise (depth n S1 S2 : Nat) : Nat :=
  max (n * roundShift S2 (2 * (depth - 8))) (roundShift S1 (depth - 8) ^ 2) - roundShift S1 (depth - 8) ^ 2

section
variable {n S1 S2 : Nat}

theorem roundShiftU_ofNat {x k : Nat} (h : x + 2 ^ k / 2 < 2 ^ 32) :
    (roundShiftU (BitVec.ofNat 32 x) k).toNat = roundShift x k := by
  rw [roundShiftU_toNat, BitVec.toNat_ofNat, Nat.mod_add_mod, Nat.mod_eq_of_lt h, roundShift]

/-- The bias stays below what is shifted out of a shifted value (R187). -/
theorem roundShift_mul_two_pow (x k : Nat) : roundShift (x * 2 ^ k) k = x := by
  have hbias : 2 ^ k / 2 < 2 ^ k := Nat.div_lt_self (by positivity) (by norm_num)
  rw [roundShift, Nat.mul_comm, Nat.mul_add_div (by positivity), Nat.div_eq_of_lt hbias, Nat.add_zero]

theorem roundShift_le {x c k : Nat} (h : x ≤ c * 2 ^ k) : roundShift x k ≤ c := by
  calc roundShift x k ≤ roundShift (c * 2 ^ k) k := Nat.div_le_div_right (by omega)
    _ = c := roundShift_mul_two_pow c k

/-- At 8 bits the difference is exact modulo 2^32 whenever it is not negative (R173). -/
theorem noiseEstimate_eight_ofNat (h : S1 ^ 2 ≤ n * S2) :
    noiseEstimate 8 n (BitVec.ofNat 32 S1) (BitVec.ofNat 32 S2) = BitVec.ofNat 32 (n * S2 - S1 ^ 2) := by
  obtain ⟨p, hp⟩ := Nat.exists_eq_add_of_le h
  rw [noiseEstimate, if_pos rfl, hp, Nat.add_sub_cancel_left, ← BitVec.ofNat_mul, ← BitVec.ofNat_mul, hp, BitVec.ofNat_add,
    ← pow_two, add_sub_cancel_left]

/-- The max is the truncated difference of natural numbers (R173). -/
theorem scaledNoise_eq_sub (depth n S1 S2 : Nat) : scaledNoise depth n S1 S2 =
    n * roundShift S2 (2 * (depth - 8)) - roundShift S1 (depth - 8) ^ 2 := by
  unfold scaledNoise
  omega

theorem scaledNoise_eight (n S1 S2 : Nat) : scaledNoise 8 n S1 S2 = n * S2 - S1 ^ 2 := by
  simp [scaledNoise_eq_sub, roundShift]

/-- At another depth the estimate is exact when the biased sums and both products fit a word (R173). -/
theorem noiseEstimate_rounded_ofNat {depth : Nat} (hdepth : depth ≠ 8) (h1 : S1 + 2 ^ (depth - 8) / 2 < 2 ^ 32)
    (h2 : S2 + 2 ^ (2 * (depth - 8)) / 2 < 2 ^ 32) (han : n * roundShift S2 (2 * (depth - 8)) < 2 ^ 32)
    (hbb : roundShift S1 (depth - 8) ^ 2 < 2 ^ 32) :
    noiseEstimate depth n (BitVec.ofNat 32 S1) (BitVec.ofNat 32 S2) = BitVec.ofNat 32 (scaledNoise depth n S1 S2) := by
  apply BitVec.eq_of_toNat_eq
  rw [noiseEstimate_rounded_toNat n _ _ hdepth, roundShiftU_ofNat h1, roundShiftU_ofNat h2, Nat.mul_comm _ n, ← pow_two,
    Nat.mod_eq_of_lt han, Nat.mod_eq_of_lt hbb, BitVec.toNat_ofNat, Nat.mod_eq_of_lt, scaledNoise]
  unfold scaledNoise
  omega

/-- The index is exact when the biased product fits a word (R174). -/
theorem tableIndex_ofNat {P : Params} {p : Nat} {strength : Word} (h : p * strength.toNat + 2 ^ P.mtableBits / 2 < 2 ^ 32) :
    tableIndex P (BitVec.ofNat 32 p) strength = min (roundShift (p * strength.toNat) P.mtableBits) 255 := by
  rw [tableIndex_eq, BitVec.toNat_ofNat, Nat.mod_mul_mod, Nat.mod_add_mod, Nat.mod_eq_of_lt h, roundShift]

/-- The intercept is exact when the slope is at most `SGR` and the biased product fits a word (R176). -/
theorem intercept_ofNat {P : Params} {a : Word} (ha : a.toNat ≤ 2 ^ P.sgrBits)
    (h : (2 ^ P.sgrBits - a.toNat) * (P.romRecip.getD (n - 1) 0).toNat * S1 + 2 ^ P.recipBits / 2 < 2 ^ 32) :
    (intercept P n a (BitVec.ofNat 32 S1)).toNat =
      roundShift ((2 ^ P.sgrBits - a.toNat) * (P.romRecip.getD (n - 1) 0).toNat * S1) P.recipBits := by
  have hcomplement : ((2 ^ P.sgrBits : Int) - a.toNat) * (P.romRecip.getD (n - 1) 0).toNat % 2 ^ 32 =
      (((2 ^ P.sgrBits - a.toNat) * (P.romRecip.getD (n - 1) 0).toNat % 2 ^ 32 : Nat) : Int) := by
    push_cast [ha]
    rfl
  rw [intercept_toNat, hcomplement, Int.toNat_natCast, BitVec.toNat_ofNat, ← Nat.mul_mod, Nat.mod_add_mod,
    Nat.mod_eq_of_lt h, roundShift]

end

/-! Legal tables -/

section
variable {P : Params}

/-- The rounding bias as R45 to R47 write it. -/
theorem two_pow_div_two {k : Nat} (h : 1 ≤ k) : 2 ^ k / 2 = 2 ^ (k - 1) := by
  obtain ⟨m, rfl⟩ := Nat.exists_eq_add_of_le' h
  rw [Nat.pow_succ, Nat.mul_div_cancel _ (by norm_num), Nat.add_sub_cancel]

/-- Every index the engine forms is inside the table, so the entry it reads is a legal one (R40, R46, R174). -/
theorem romXbx_tableIndex_mem (hP : P.wf) (p strength : Word) : P.romXbx.getD (tableIndex P p strength) 0 ∈ P.romXbx := by
  obtain ⟨-, -, -, -, -, -, -, -, -, -, -, -, -, -, -, -, -, hlength⟩ := hP
  have hindex : tableIndex P p strength < P.romXbx.length := by
    rw [tableIndex_eq]
    omega
  rw [List.getD_eq_getElem _ _ hindex]
  exact List.getElem_mem hindex

/-- With a legal slope table the pair is exact for a sum of samples whose noise estimate `p` keeps the index product in a word: the
table's legality keeps the intercept's product in one (R46). -/
theorem coefficients_exact {d rad S1 p : Nat} {strength sum2 : Word} (hP : P.wf) (hxbx : P.xbxLegal) (hd : d ∈ P.depths)
    (hrad : 1 ≤ rad) (hmax : rad ≤ P.rMax) (hS1 : S1 ≤ windowCount rad * (2 ^ d - 1))
    (hnoise : noiseEstimate d (windowCount rad) (BitVec.ofNat 32 S1) sum2 = BitVec.ofNat 32 p)
    (hindex : p * strength.toNat + 2 ^ P.mtableBits / 2 < 2 ^ 32) :
    let a := (P.romXbx.getD (min (roundShift (p * strength.toNat) P.mtableBits) 255) 0).toNat
    let pair := coefficients P d rad strength (BitVec.ofNat 32 S1) sum2;
    pair.1.toNat = a ∧
    pair.2.toNat = roundShift ((2 ^ P.sgrBits - a) * (P.romRecip.getD (windowCount rad - 1) 0).toNat * S1) P.recipBits := by
  intro a pair
  obtain ⟨-, -, -, -, -, -, hrecip, -⟩ := id hP
  have hentry := romXbx_tableIndex_mem hP (noiseEstimate d (windowCount rad) (BitVec.ofNat 32 S1) sum2) strength
  obtain ⟨hle, hproduct⟩ := hxbx _ hentry
  rw [← coefficients_fst_toNat] at hle hproduct
  change pair.1.toNat ≤ 2 ^ P.sgrBits at hle
  have ha : pair.1.toNat = a := by
    rw [coefficients_fst_toNat, hnoise, tableIndex_ofNat hindex]
  have hradius : rad ∈ P.radii := List.mem_range'_1.2 ⟨hrad, by omega⟩
  have hword : (2 ^ P.sgrBits - pair.1.toNat) * (P.romRecip.getD (windowCount rad - 1) 0).toNat * S1 + 2 ^ P.recipBits / 2
      < 2 ^ 32 := by
    rw [two_pow_div_two (by omega : 1 ≤ P.recipBits)]
    refine lt_of_le_of_lt (Nat.add_le_add_right (Nat.mul_le_mul_left _ hS1) _) ?_
    rw [← Nat.mul_assoc]
    exact hproduct rad hradius d hd
  exact ⟨ha, by rw [coefficients_snd, intercept_ofNat hle hword, ha]⟩

end

/-! The sums of window samples -/

section
variable {d : Nat} {xs : List Nat}

/-- Rounding moves a value by at most half a step `2^k`, so its square loses at most the value times a step (R173). -/
theorem sq_le_roundShift_sq (x k : Nat) : x ^ 2 ≤ (roundShift x k * 2 ^ k) ^ 2 + x * 2 ^ k := by
  have hstep : 2 * x ≤ 2 * (roundShift x k * 2 ^ k) + 2 ^ k := by
    have := Nat.lt_div_mul_add (a := x + 2 ^ k / 2) (b := 2 ^ k) (by positivity)
    rw [← roundShift] at this
    omega
  generalize roundShift x k * 2 ^ k = y at hstep ⊢
  obtain hle | hle := Nat.le_total x y <;> nlinarith

/-- The difference of the rounded sums at sample scale: `q` is the step of the first rounding, `v*m^2` the variance bound (R173). -/
theorem scaled_difference_le {n m q v a2 b1 S1 S2 : Nat} (hsum : S1 ≤ n * m) (hvariance : n * S2 ≤ S1 ^ 2 + v * m ^ 2)
    (hfirst : S1 ^ 2 ≤ (b1 * q) ^ 2 + S1 * q) (hsecond : a2 * q ^ 2 ≤ S2 + q ^ 2 / 2) :
    (n * a2 - b1 ^ 2) * (2 * q ^ 2) ≤ 2 * v * m ^ 2 + 2 * n * m * q + n * q ^ 2 := by
  have htwice : 2 * (a2 * q ^ 2) ≤ 2 * S2 + q ^ 2 := by omega
  have hcross := Nat.mul_le_mul_right q hsum
  rw [Nat.sub_mul, Nat.sub_le_iff_le_add]
  calc n * a2 * (2 * q ^ 2) = n * (2 * (a2 * q ^ 2)) := by ring
    _ ≤ n * (2 * S2 + q ^ 2) := Nat.mul_le_mul_left n htwice
    _ = 2 * (n * S2) + n * q ^ 2 := by ring
    _ ≤ 2 * ((b1 * q) ^ 2 + n * m * q + v * m ^ 2) + n * q ^ 2 := by omega
    _ = 2 * v * m ^ 2 + 2 * n * m * q + n * q ^ 2 + b1 ^ 2 * (2 * q ^ 2) := by ring

/-- R173's bound for the sums of samples, from the variance at sample scale and the two rounding errors. -/
theorem scaledNoise_le (hd : 8 ≤ d) (h : ∀ x ∈ xs, x ≤ 2 ^ d - 1) :
    scaledNoise d xs.length xs.sum (xs.map (· ^ 2)).sum ≤ noiseBound d xs.length := by
  have hvariance := variance_le h
  by_cases h8 : d = 8
  · subst h8
    rw [scaledNoise_eight, noiseBound, if_pos rfl]
    exact Nat.sub_le_iff_le_add'.2 hvariance
  have hsecond : roundShift (xs.map (· ^ 2)).sum (2 * (d - 8)) * (2 ^ (d - 8)) ^ 2 ≤
      (xs.map (· ^ 2)).sum + (2 ^ (d - 8)) ^ 2 / 2 := by
    rw [← pow_mul, Nat.mul_comm (d - 8)]
    exact Nat.div_mul_le_self _ _
  rw [noiseBound, if_neg h8, Nat.le_div_iff_mul_le (by positivity), scaledNoise_eq_sub]
  exact scaled_difference_le (sums_le _ xs h).1 hvariance (sq_le_roundShift_sq _ _) hsecond

/-- At 8-bit scale samples are below 2^8 and their squares below 2^16 (R172, R173). -/
theorem roundShift_sums_le (hd : 8 ≤ d) (h : ∀ x ∈ xs, x ≤ 2 ^ d - 1) :
    roundShift xs.sum (d - 8) ≤ xs.length * 2 ^ 8 ∧
    roundShift (xs.map (· ^ 2)).sum (2 * (d - 8)) ≤ xs.length * 2 ^ 16 := by
  obtain ⟨hsum, hsquares⟩ := sums_le _ xs h
  have hm : 2 ^ d - 1 ≤ 2 ^ 8 * 2 ^ (d - 8) := by
    rw [← Nat.pow_add, Nat.add_sub_cancel' hd]
    exact Nat.sub_le _ _
  constructor
  · apply roundShift_le
    calc xs.sum ≤ xs.length * (2 ^ 8 * 2 ^ (d - 8)) := hsum.trans (Nat.mul_le_mul_left _ hm)
      _ = xs.length * 2 ^ 8 * 2 ^ (d - 8) := by ring
  · apply roundShift_le
    calc (xs.map (· ^ 2)).sum ≤ xs.length * (2 ^ 8 * 2 ^ (d - 8)) ^ 2 :=
          hsquares.trans (Nat.mul_le_mul_left _ (Nat.pow_le_pow_left hm 2))
      _ = xs.length * 2 ^ 16 * 2 ^ (2 * (d - 8)) := by ring

/-- Up to 225 samples of a legal depth: no sum and no product of the estimate wraps (R173). -/
theorem noiseEstimate_of_samples (hd : 8 ≤ d ∧ d ≤ 12) (hn : xs.length ≤ 225) (h : ∀ x ∈ xs, x ≤ 2 ^ d - 1) :
    noiseEstimate d xs.length (BitVec.ofNat 32 xs.sum) (BitVec.ofNat 32 (xs.map (· ^ 2)).sum) =
      BitVec.ofNat 32 (scaledNoise d xs.length xs.sum (xs.map (· ^ 2)).sum) := by
  by_cases h8 : d = 8
  · subst h8
    rw [noiseEstimate_eight_ofNat (sq_sum_le xs), scaledNoise_eight]
  have htop : 2 ^ d - 1 ≤ 4095 := Nat.sub_le_sub_right (Nat.pow_le_pow_right (by norm_num) hd.2) 1
  obtain ⟨hsum, hsquares⟩ := sums_le 4095 xs fun x hx => (h x hx).trans htop
  obtain ⟨hrounded, hroundedSquares⟩ := roundShift_sums_le hd.1 h
  have hbias : 2 ^ (d - 8) / 2 ≤ 2 ^ 4 / 2 := Nat.div_le_div_right (Nat.pow_le_pow_right (by norm_num) (by omega))
  have hbiasSquares : 2 ^ (2 * (d - 8)) / 2 ≤ 2 ^ 8 / 2 := Nat.div_le_div_right (Nat.pow_le_pow_right (by norm_num) (by omega))
  refine noiseEstimate_rounded_ofNat h8 (by omega) (by omega) ?products ?square
  case products =>
    have := Nat.mul_le_mul hn (hroundedSquares.trans (Nat.mul_le_mul_right _ hn))
    omega
  case square =>
    have := Nat.pow_le_pow_left (hrounded.trans (Nat.mul_le_mul_right _ hn)) 2
    omega

end

/-! The statements -/

/-- Settles O57: the pair stage by stage. -/
theorem coefficientsFollowFormulas : Obligations.CoefficientsFollowFormulas := by
  unfold Obligations.CoefficientsFollowFormulas
  intro P depth rad strength sum1 sum2 S1 S2 n sh a2 b1 an bb p m z a oneByN t q b pair
  have hp : (noiseEstimate depth (windowCount rad) sum1 sum2).toNat = p := by
    by_cases hdepth : depth = 8
    · subst hdepth
      exact noiseEstimate_eight_toNat _ sum1 sum2
    · rw [noiseEstimate_rounded_toNat _ sum1 sum2 hdepth, roundShiftU_toNat, roundShiftU_toNat]
      exact (if_neg hdepth).symm
  have ha : pair.1.toNat = a := by
    rw [coefficients_fst_toNat, tableIndex_eq, hp]
  refine ⟨ha, ?_⟩
  rw [coefficients_snd, intercept_toNat, ha]
  rfl

/-- Settles O37: the index never leaves the table, whose entries are at most `SGR`. -/
theorem slopeWithinRange : Obligations.SlopeWithinRange := by
  unfold Obligations.SlopeWithinRange
  intro P depth rad strength sum1 sum2 hP hxbx
  obtain ⟨hle, -⟩ := hxbx _ (romXbx_tableIndex_mem hP (noiseEstimate depth (windowCount rad) sum1 sum2) strength)
  rw [coefficients_fst_toNat]
  exact hle

/-- Settles O38: both roundings give back the unshifted sums, so both depths estimate `n*S2 - S1^2`. -/
theorem highDepthNoiseMatches : Obligations.HighDepthNoiseMatches := by
  unfold Obligations.HighDepthNoiseMatches
  intro n sh S1 S2 hsh _ hproduct hsquare hS1 hS2
  have hshift : 8 + sh - 8 = sh := by omega
  have hbias1 : 2 ^ sh / 2 ≤ 2 ^ sh := Nat.div_le_self _ _
  have hbias2 : 2 ^ (2 * sh) / 2 ≤ 2 ^ (2 * sh) := Nat.div_le_self _ _
  have hrounded := noiseEstimate_rounded_ofNat (n := n) (S1 := S1 * 2 ^ sh) (S2 := S2 * 2 ^ (2 * sh)) (depth := 8 + sh) (by omega)
  simp only [scaledNoise, hshift, roundShift_mul_two_pow] at hrounded
  rw [noiseEstimate_eight_ofNat hsquare, hrounded (by omega) (by omega) hproduct (hsquare.trans_lt hproduct), max_eq_left hsquare]

/-- Settles O36: at 8 bits the difference is the exact estimate, and R173's bound keeps its index product in a word. -/
theorem coefficientsExactAtEightBits : Obligations.CoefficientsExactAtEightBits := by
  unfold Obligations.CoefficientsExactAtEightBits
  intro P rad S1 S2 strength hP hrom hrad hmax n p hstrength hS1 hsquare hnoise z a pair
  obtain ⟨-, hxbx, -⟩ := hrom
  obtain ⟨-, -, -, -, -, ⟨hmtable, -⟩, hrecip, -, -, -, -, -, -, -, -, ⟨hdepth, -⟩, -⟩ := id hP
  have hindex : p * strength.toNat + 2 ^ P.mtableBits / 2 < 2 ^ 32 := by
    rw [two_pow_div_two hmtable]
    exact lt_of_le_of_lt (Nat.add_le_add_right (Nat.mul_le_mul_right _ hnoise) _) hstrength
  have hexact := coefficients_exact hP hxbx hdepth hrad hmax hS1 (noiseEstimate_eight_ofNat hsquare) hindex
  simp only [roundShift, two_pow_div_two hmtable, two_pow_div_two (by omega : 1 ≤ P.recipBits)] at hexact
  exact hexact

/-- Settles O58: the samples' sums wrap nowhere, and R173's bound keeps the index product in a word. -/
theorem coefficientsExactAtEveryDepth : Obligations.CoefficientsExactAtEveryDepth := by
  unfold Obligations.CoefficientsExactAtEveryDepth
  intro P d rad strength samples hP hxbx hstrength hd hrad hmax hseven n hlength hsamples S1 S2 sh a2 b1 p z a pair
  obtain ⟨-, -, -, -, -, ⟨hmtable, -⟩, -, -, -, -, -, -, -, -, -, ⟨-, hdepths⟩, -⟩ := id hP
  have hn : samples.length ≤ 225 := hlength.trans_le (Nat.pow_le_pow_left (by omega : 2 * rad.toNat + 1 ≤ 15) 2)
  have hp : p = scaledNoise d samples.length S1 S2 := by
    rw [hlength]
    rfl
  have hbound : p ≤ noiseBound d n := by
    rw [hp, ← hlength]
    exact scaledNoise_le (hdepths d hd).1 hsamples
  have hvariance : d = 8 → p + S1 ^ 2 = n * S2 := by
    rintro rfl
    rw [hp, scaledNoise_eight, ← hlength]
    exact Nat.sub_add_cancel (sq_sum_le samples)
  have hnoise : noiseEstimate d (windowCount rad.toNat) (BitVec.ofNat 32 S1) (BitVec.ofNat 32 S2) = BitVec.ofNat 32 p := by
    rw [hp, show windowCount rad.toNat = samples.length from hlength.symm]
    exact noiseEstimate_of_samples (hdepths d hd) hn hsamples
  have hindex : p * strength.toNat + 2 ^ P.mtableBits / 2 < 2 ^ 32 := by
    rw [two_pow_div_two hmtable]
    exact lt_of_le_of_lt (Nat.add_le_add_right (Nat.mul_le_mul_right _ hbound) _) (hstrength hrad d hd)
  have hS1 : S1 ≤ n * (2 ^ d - 1) := by
    rw [← hlength]
    exact (sums_le _ samples hsamples).1
  exact ⟨hbound, hvariance, coefficients_exact hP hxbx hd hrad hmax hS1 hnoise hindex⟩

end Sys2Proof.Machine
end

section
/-! SUPPORT. The estimator commands (R170, R172, R181 to R185): what the list of pairs written from a part of the window leaves in
`A` and `B`, that its order is immaterial, and that the fast interpolator reads nothing else of `A` and `B`. -/

namespace Sys2Proof.Machine

open Sys2Proof.Config

section
variable {s : State} {r : OperandRegs} {k : Slot} {cells : List (Int × Int)}

/-! What an estimator writes -/

/-- Distinct positions of any part of the window have distinct addresses. -/
theorem posAddr_inj_of_subset (hP : s.cfg.wf) (hg : geometryLegal s.cfg r = true) (hw : ∀ q ∈ cells, q ∈ preciseWindow r) :
    ∀ p ∈ cells, ∀ q ∈ cells, posAddr s.cfg r p.1 p.2 = posAddr s.cfg r q.1 q.2 → p = q :=
  fun p hp q hq => posAddr_inj hP hg (hw p hp) (hw q hq)

/-- Completion and the stage change only `A`, `B`, the draw counter and the flags (R185). -/
theorem complete_estimate_frame (cells : List (Int × Int)) (k : Slot) (r : OperandRegs) (s : State) :
    complete (estimate cells k r s) =
      { s with gridA := (complete (estimate cells k r s)).gridA, gridB := (complete (estimate cells k r s)).gridB,
               draws := (complete (estimate cells k r s)).draws, pending := none, done := true } := rfl

/-! On images of a plane -/

/-- The radius of a slot primitive that passes its checks is legal (R257, R259). -/
theorem slotRadius_legal_of_accepted {i : Instr} {P : Params} (hchecks : checksOf i = slotChecks)
    (h : firstFailure i P r = none) (k : Slot) : radiusLegal P (slotRadius P r k) = true := by
  have hall : ∀ e ∈ checksOf i, checkFails i P r e = false := by
    simpa [firstFailure] using h
  have hradius := hall .radius (by simp [hchecks, slotChecks])
  simp only [checkFails, Bool.not_eq_false', Bool.and_eq_true] at hradius
  cases k with
  | slot0 => exact hradius.1
  | slot1 => exact hradius.2

/-- An in-contract position's pair on the images of a plane is that of its window sums (R172, R178). -/
theorem coef_of_holdsImages {f : Nat → Nat → Nat} {i j : Int} (himg : holdsImages s r f)
    (hq : inContract s.cfg r i j (slotRadius s.cfg r k) = true) :
    s.coef r k i j = coefficients s.cfg r.bitDepth.toNat (slotRadius s.cfg r k) (slotStrength s.cfg r k)
      (BitVec.ofNat 32 (windowSum s.cfg f i j (slotRadius s.cfg r k)))
      (BitVec.ofNat 32 (windowSum s.cfg (fun py px => f py px ^ 2) i j (slotRadius s.cfg r k))) := by
  have hD := boxSum_of_holdsImages (site := posAddr s.cfg r i j) himg .sums hq
  have hC := boxSum_of_holdsImages (site := posAddr s.cfg r i j) himg .squares hq
  rw [State.coef]
  exact congrArg₂ _ hD hC

/-- An estimator whose slot radius is legal stores the pairs of the window sums, on every position it takes (R170, R181). -/
theorem get?_estimate_of_holdsImages {f : Nat → Nat → Nat} (hP : s.cfg.wf) (hg : geometryLegal s.cfg r = true)
    (hrad : radiusLegal s.cfg (slotRadius s.cfg r k) = true) (himg : holdsImages s r f)
    (hw : ∀ q ∈ cells, q ∈ preciseWindow r) {i j : Int} (hij : (i, j) ∈ cells) :
    let pair := coefficients s.cfg r.bitDepth.toNat (slotRadius s.cfg r k) (slotStrength s.cfg r k)
      (BitVec.ofNat 32 (windowSum s.cfg f i j (slotRadius s.cfg r k)))
      (BitVec.ofNat 32 (windowSum s.cfg (fun py px => f py px ^ 2) i j (slotRadius s.cfg r k)))
    Memory.get? (estimate cells k r s).gridA (posAddr s.cfg r i j) = some pair.1 ∧
    Memory.get? (estimate cells k r s).gridB (posAddr s.cfg r i j) = some pair.2 := by
  obtain ⟨⟨htop, hbottom⟩, hleft, hright⟩ := mem_preciseWindow.1 (hw _ hij)
  have hq := estimatorQueriesInContract s.cfg r _ i j hP hrad htop hbottom hleft hright
  rw [← coef_of_holdsImages himg hq]
  exact (get?_estimate (posAddr_inj_of_subset hP hg hw)).1 (i, j) hij

/-! Order -/

theorem wf_setAll {w : Nat} {m : Memory w} (h : Memory.wf m) (ps : List (Nat × BitVec w)) : Memory.wf (Memory.setAll m ps) := by
  induction ps generalizing m with
  | nil => exact h
  | cons p ps ih => exact ih (wf_set h p.1 p.2)

/-- Writes of distinct places may be done in any order: a canonical memory is determined by its reads. -/
theorem setAll_map_perm {α : Type} {w : Nat} {m : Memory w} (hm : Memory.wf m) {cells cells' : List α} (addr : α → Nat)
    (value : α → BitVec w) (hinj : ∀ x ∈ cells', ∀ y ∈ cells', addr x = addr y → x = y) (hperm : cells.Perm cells') :
    Memory.setAll m (cells.map fun p => (addr p, value p)) = Memory.setAll m (cells'.map fun p => (addr p, value p)) := by
  have hreads := get?_setAll_map m cells addr value fun x hx y hy => hinj x (hperm.subset hx) y (hperm.subset hy)
  have hreads' := get?_setAll_map m cells' addr value hinj
  refine memory_ext (wf_setAll hm _) (wf_setAll hm _) fun a => ?_
  by_cases ha : ∃ x ∈ cells, addr x = a
  · obtain ⟨x, hx, rfl⟩ := ha
    rw [hreads.1 x hx, hreads'.1 x (hperm.subset hx)]
  · have hother : ∀ x ∈ cells, addr x ≠ a := fun x hx he => ha ⟨x, hx, he⟩
    rw [hreads.2 a hother, hreads'.2 a fun x hx => hother x (hperm.symm.subset hx)]

/-- The estimator's positions may be taken in any order (R184). -/
theorem estimate_perm {cells' : List (Int × Int)} (hP : s.cfg.wf) (hg : geometryLegal s.cfg r = true)
    (hA : Memory.wf s.gridA) (hB : Memory.wf s.gridB) (hw : ∀ q ∈ cells', q ∈ preciseWindow r) (hperm : cells.Perm cells') :
    estimate cells k r s = estimate cells' k r s := by
  have hinj := posAddr_inj_of_subset hP hg hw
  unfold estimate
  rw [setAll_map_perm hA (fun p => posAddr s.cfg r p.1 p.2) (fun p => (s.coef r k p.1 p.2).1) hinj hperm,
    setAll_map_perm hB (fun p => posAddr s.cfg r p.1 p.2) (fun p => (s.coef r k p.1 p.2).2) hinj hperm]

end

/-! What the fast interpolator reads -/

section
variable {m m' : Int → Int → Word} {i j : Int}

/-- The cross kernel reads the rows above and below only (R201, R203). -/
theorem kernelEven_congr (h : ∀ y x, y = i - 1 ∨ y = i + 1 → j - 1 ≤ x → x ≤ j + 1 → m y x = m' y x) :
    kernelEven m i j = kernelEven m' i j := by
  simp only [kernelEven, h (i - 1) (j - 1) (.inl rfl) (by omega) (by omega), h (i - 1) j (.inl rfl) (by omega) (by omega),
    h (i - 1) (j + 1) (.inl rfl) (by omega) (by omega), h (i + 1) (j - 1) (.inr rfl) (by omega) (by omega),
    h (i + 1) j (.inr rfl) (by omega) (by omega), h (i + 1) (j + 1) (.inr rfl) (by omega) (by omega)]

/-- The triple reads the own row only (R201, R203). -/
theorem kernelOdd_congr (h : ∀ x, j - 1 ≤ x → x ≤ j + 1 → m i x = m' i x) : kernelOdd m i j = kernelOdd m' i j := by
  simp only [kernelOdd, h (j - 1) (by omega) (by omega), h j (by omega) (by omega), h (j + 1) (by omega) (by omega)]

end

/-- Two states that agree on all the fast interpolator may read: the record, the plane, the draws, and `A` and `B` on the rows of
the fast estimator (R182, R203). -/
structure AgreeOnFastRows (r : OperandRegs) (t t' : State) : Prop where
  cfg : t.cfg = t'.cfg
  src : t.src = t'.src
  draws : t.draws = t'.draws
  gridA : ∀ q ∈ fastWindow r,
    Memory.get? t.gridA (posAddr t.cfg r q.1 q.2) = Memory.get? t'.gridA (posAddr t.cfg r q.1 q.2)
  gridB : ∀ q ∈ fastWindow r,
    Memory.get? t.gridB (posAddr t.cfg r q.1 q.2) = Memory.get? t'.gridB (posAddr t.cfg r q.1 q.2)

section
variable {s t t' : State} {r : OperandRegs} {k : Slot} {site : Nat}

theorem AgreeOnFastRows.at_a (h : AgreeOnFastRows r t t') {y x : Int} (hq : (y, x) ∈ fastWindow r) :
    t.at r .a site y x = t'.at r .a site y x := by
  have := h.gridA (y, x) hq
  simp only [State.at, State.readGrid, State.grid, ← h.cfg, ← h.draws, this]

theorem AgreeOnFastRows.at_b (h : AgreeOnFastRows r t t') {y x : Int} (hq : (y, x) ∈ fastWindow r) :
    t.at r .b site y x = t'.at r .b site y x := by
  have := h.gridB (y, x) hq
  simp only [State.at, State.readGrid, State.grid, ← h.cfg, ← h.draws, this]

theorem AgreeOnFastRows.srcSample (h : AgreeOnFastRows r t t') (i j : Int) :
    t.srcSample r i j site = t'.srcSample r i j site := by
  simp only [State.srcSample, State.sample, State.readPlane, State.plane, h.cfg, h.src, h.draws]

/-- The rows above and below an even output row, and an odd output row itself, are rows of the fast estimator (R182). -/
theorem AgreeOnFastRows.fastCandidate (h : AgreeOnFastRows r t t') {i j : Nat} (hi : i < r.height.toNat)
    (hj : j < r.width.toNat) : t.fastCandidate r i j = t'.fastCandidate r i j := by
  unfold State.fastCandidate
  simp only [h.srcSample, h.cfg]
  split
  case isTrue heven =>
    have hrow : ∀ y x : Int, y = i - 1 ∨ y = i + 1 → (j : Int) - 1 ≤ x → x ≤ j + 1 → (y, x) ∈ fastWindow r := by
      intro y x hy _ _
      rw [mem_fastWindow]
      dsimp only
      omega
    rw [kernelEven_congr fun y x hy hl hr => h.at_a (hrow y x hy hl hr),
      kernelEven_congr fun y x hy hl hr => h.at_b (hrow y x hy hl hr)]
  case isFalse hodd =>
    have hrow : ∀ x : Int, (j : Int) - 1 ≤ x → x ≤ j + 1 → ((i : Int), x) ∈ fastWindow r := by
      intro x _ _
      rw [mem_fastWindow]
      dsimp only
      omega
    rw [kernelOdd_congr fun x hl hr => h.at_a (hrow x hl hr), kernelOdd_congr fun x hl hr => h.at_b (hrow x hl hr)]

/-- The candidates depend on nothing else (R203, R204). -/
theorem AgreeOnFastRows.grid_finalFilterFastBody (h : AgreeOnFastRows r t t') (hflt : t.grid (fltGrid k) = t'.grid (fltGrid k)) :
    (finalFilterFastBody k r t).grid (fltGrid k) = (finalFilterFastBody k r t').grid (fltGrid k) := by
  have hvalues : (unitPositions r).map (fun p => (fltAddr r p.1 p.2, t.fastCandidate r p.1 p.2)) =
      (unitPositions r).map fun p => (fltAddr r p.1 p.2, t'.fastCandidate r p.1 p.2) := by
    refine List.map_congr_left fun p hp => ?_
    obtain ⟨hi, hj⟩ := mem_unitPositions.1 hp
    rw [h.fastCandidate hi hj]
  simp only [finalFilterFastBody, interpolate_eq, grid_nextDraws, grid_setGrid_self, hflt, hvalues]

/-- The completion of one command and the acceptance of the next leave what they agree on (R84, R85). -/
theorem AgreeOnFastRows.nextCommand (h : AgreeOnFastRows r t t') (i : Instr) :
    AgreeOnFastRows r ((complete t).withPending i r) ((complete t').withPending i r) :=
  ⟨h.cfg, h.src, h.draws, h.gridA, h.gridB⟩

/-- The estimator's pairs do not depend on `A` and `B`, so on its rows what they held before is gone. -/
theorem agreeOnFastRows_calcAbFastBody (hP : s.cfg.wf) (hg : geometryLegal s.cfg r = true) (A B : Memory 32) :
    AgreeOnFastRows r (calcAbFastBody k r s) (calcAbFastBody k r { s with gridA := A, gridB := B }) := by
  have hinj := posAddr_inj_of_subset hP hg fun _ => fastWindow_subset
  have hpairs := (get?_estimate (k := k) hinj).1
  have hpairs' := (get?_estimate (k := k) (s := { s with gridA := A, gridB := B }) hinj).1
  exact ⟨rfl, rfl, rfl, fun q hq => (hpairs q hq).1.trans (hpairs' q hq).1.symm,
    fun q hq => (hpairs q hq).2.trans (hpairs' q hq).2.symm⟩

end

/-! The statements -/

/-- Settles O32: the pairs of the whole window. -/
theorem calcAbWritesWindow : Obligations.CalcAbWritesWindow := by
  unfold Obligations.CalcAbWritesWindow
  intro s p k held hP hg r rad
  obtain ⟨hpairs, hother⟩ := get?_estimate (k := k) (posAddr_inj_of_subset hP hg fun _ => id)
  refine ⟨_, exec_pending rfl held, complete_estimate_frame _ k r s, ?pairs, ?outside⟩
  case pairs =>
    intro i j htop hbottom hleft hright
    exact hpairs (i, j) (mem_preciseWindow.2 ⟨⟨htop, hbottom⟩, hleft, hright⟩)
  case outside =>
    intro a ha
    refine hother a fun q hq => ?_
    obtain ⟨⟨htop, hbottom⟩, hleft, hright⟩ := mem_preciseWindow.1 hq
    exact ha q.1 q.2 htop hbottom hleft hright

/-- Settles O33: the pairs of the window's rows -1, 1, 3, ... -/
theorem calcAbFastWritesOddRows : Obligations.CalcAbFastWritesOddRows := by
  unfold Obligations.CalcAbFastWritesOddRows
  intro s p k held hP hg r rad
  obtain ⟨hpairs, hother⟩ := get?_estimate (k := k) (posAddr_inj_of_subset hP hg fun _ => fastWindow_subset)
  refine ⟨_, exec_pending rfl held, complete_estimate_frame _ k r s, ?pairs, ?outside⟩
  case pairs =>
    intro i j htop hbottom hodd hleft hright
    exact hpairs (i, j) (mem_fastWindow.2 ⟨⟨htop, hbottom, hodd⟩, hleft, hright⟩)
  case outside =>
    intro a ha
    refine hother a fun q hq => ?_
    obtain ⟨⟨htop, hbottom, hodd⟩, hleft, hright⟩ := mem_fastWindow.1 hq
    exact ha q.1 q.2 htop hbottom hodd hleft hright

/-- Settles O34: a radius that passed its check keeps every query in contract, where the box sums are window sums. -/
theorem calcAbFromWindowSums : Obligations.CalcAbFromWindowSums := by
  unfold Obligations.CalcAbFromWindowSums
  intro s p k f held hP himg r rad stored
  refine ⟨fun haccepted => ?precise, fun haccepted => ?fast⟩
  case precise =>
    have hg := (legal_of_accepted rfl haccepted).2
    have hrad := slotRadius_legal_of_accepted rfl haccepted k
    refine ⟨_, exec_pending rfl held, fun i j htop hbottom hleft hright => ?_⟩
    exact get?_estimate_of_holdsImages hP hg hrad himg (fun _ => id)
      (mem_preciseWindow.2 ⟨⟨htop, hbottom⟩, hleft, hright⟩)
  case fast =>
    have hg := (legal_of_accepted rfl haccepted).2
    have hrad := slotRadius_legal_of_accepted rfl haccepted k
    refine ⟨_, exec_pending rfl held, fun i j htop hbottom hodd hleft hright => ?_⟩
    exact get?_estimate_of_holdsImages hP hg hrad himg (fun _ => fastWindow_subset)
      (mem_fastWindow.2 ⟨⟨htop, hbottom, hodd⟩, hleft, hright⟩)

/-- Settles O39: both windows hold distinct addresses, so their writes commute. -/
theorem estimatorOrderIrrelevant : Obligations.EstimatorOrderIrrelevant := by
  unfold Obligations.EstimatorOrderIrrelevant
  intro s r k cells hP hg hA hB
  exact ⟨estimate_perm hP hg hA hB fun _ => id, estimate_perm hP hg hA hB fun _ => fastWindow_subset⟩

/-- Settles O42: the two runs of the estimator agree on its rows, which are all that the interpolator reads of `A` and `B`. -/
theorem fastPathReadsOnlyEstimatedRows : Obligations.FastPathReadsOnlyEstimatedRows := by
  unfold Obligations.FastPathReadsOnlyEstimatedRows
  intro s s' r k u u' v v' hP hg hs' hu hu' hv hv'
  obtain ⟨A, B, rfl⟩ : ∃ A B, s' = { s with gridA := A, gridB := B } := ⟨_, _, hs'⟩
  rw [exec_pending rfl rfl] at hu hu' hv hv'
  cases hu
  cases hu'
  cases hv
  cases hv'
  have hagree := (agreeOnFastRows_calcAbFastBody (s := s.withPending (.calcAbFast k) r) (k := k) hP hg A B).nextCommand
    (.finalFilterFast k)
  rw [grid_complete, grid_complete]
  exact hagree.grid_finalFilterFastBody (by cases k <;> rfl)

end Sys2Proof.Machine
end

section
/-! SUPPORT. The spatial interpolation blender (R200 to R214): the candidates the two interpolators leave, the accumulation of the
blend over the active slots, and the clamped sample. -/

namespace Sys2Proof.Machine

open Sys2Proof.Config

/-! The interpolators -/

/-- What a completed interpolator leaves in `FLTk` (R200, R203, R206). -/
theorem get?_complete_interpolate (value : Nat → Nat → Word) (k : Slot) (r : OperandRegs) (s : State) :
    (∀ i j, i < r.height.toNat → j < r.width.toNat →
      Memory.get? ((complete (interpolate value k r s)).grid (fltGrid k)) (fltAddr r i j) = some (value i j)) ∧
    ∀ a, r.width.toNat * r.height.toNat ≤ a →
      Memory.get? ((complete (interpolate value k r s)).grid (fltGrid k)) a = Memory.get? (s.grid (fltGrid k)) a := by
  rw [grid_complete]
  exact get?_interpolate value k r s

/-- An even output row takes the cross kernel (R203). -/
theorem fastCandidate_even (s : State) (r : OperandRegs) {i : Nat} (j : Nat) (heven : i % 2 = 0) :
    s.fastCandidate r i j = combine s.cfg nb0 (kernelEven (s.at r .a (fltAddr r i j)) i j)
      (kernelEven (s.at r .b (fltAddr r i j)) i j) (s.srcSample r i j (fltAddr r i j)) :=
  if_pos heven

/-- An odd output row takes the triple (R203). -/
theorem fastCandidate_odd (s : State) (r : OperandRegs) {i : Nat} (j : Nat) (hodd : i % 2 = 1) :
    s.fastCandidate r i j = combine s.cfg nb1 (kernelOdd (s.at r .a (fltAddr r i j)) i j)
      (kernelOdd (s.at r .b (fltAddr r i j)) i j) (s.srcSample r i j (fltAddr r i j)) :=
  if_neg (by omega)

/-! The blend of the active slots -/

/-- One slot's step of the blend: its weighted difference from the scaled sample `u`, and nothing when it is inactive (R210). -/
def accumulate (u acc : Word) : Option (Word × Word) → Word
  | none => acc
  | some (xq, flt) => acc + xq * (flt - u)

theorem blendWord_eq_accumulate (P : Params) (x : Word) (c0 c1 : Option (Word × Word)) :
    blendWord P x c0 c1 = roundShiftS
      (accumulate (x <<< P.rstBits) (accumulate (x <<< P.rstBits) (x <<< P.rstBits <<< P.prjBits) c0) c1)
      (P.prjBits + P.rstBits) := by
  cases c0 <;> cases c1 <;> simp [blendWord, accumulate]

/-- The weight register of a slot (R28, R210). -/
def OperandRegs.weight (r : OperandRegs) : Slot → Word
  | .slot0 => r.xq0
  | .slot1 => r.xq1

/-- The snapshot with another weight of one slot. -/
def OperandRegs.setWeight (r : OperandRegs) (xq : Word) : Slot → OperandRegs
  | .slot0 => { r with xq0 := xq }
  | .slot1 => { r with xq1 := xq }

section
variable {s : State} {r : OperandRegs} {k : Slot}

theorem slotRadius_slot0_eq_zero {P : Params} : slotRadius P r .slot0 = 0 ↔ (paramSet P r).r0 = 0 :=
  (BitVec.toNat_eq (y := 0)).symm

theorem slotRadius_slot1_eq_zero {P : Params} : slotRadius P r .slot1 = 0 ↔ (paramSet P r).r1 = 0 :=
  (BitVec.toNat_eq (y := 0)).symm

theorem candidate_of_inactive (inactive : slotRadius s.cfg r k = 0) (i j : Nat) : s.candidate r k i j = none :=
  if_pos inactive

theorem candidate_of_active (active : slotRadius s.cfg r k ≠ 0) (i j : Nat) :
    s.candidate r k i j = some (r.weight k, s.readGrid (fltGrid k) (fltAddr r i j) (dstAddr s.cfg r i j)) := by
  unfold State.candidate
  rw [if_neg active]
  cases k <;> rfl

/-- A slot's step of the blend from the memories (R210, R213). -/
theorem accumulate_candidate (u acc : Word) (s : State) (r : OperandRegs) (k : Slot) (i j : Nat) :
    accumulate u acc (s.candidate r k i j) =
      if slotRadius s.cfg r k = 0 then acc
      else acc + r.weight k * (s.readGrid (fltGrid k) (fltAddr r i j) (dstAddr s.cfg r i j) - u) := by
  split
  case isTrue inactive => rw [candidate_of_inactive inactive, accumulate]
  case isFalse active => rw [candidate_of_active active, accumulate]

/-- A slot of weight 0 adds nothing, active or not. -/
theorem accumulate_candidate_of_weight_zero (u acc : Word) (hweight : r.weight k = 0) (i j : Nat) :
    accumulate u acc (s.candidate r k i j) = acc := by
  rw [accumulate_candidate, hweight]
  simp

/-- No candidate depends on the `FLT` memory and the weight of an inactive slot (R212). -/
theorem candidate_of_change_inactive (inactive : slotRadius s.cfg r k = 0) (flt : Memory 32) (xq : Word) (k' : Slot)
    (i j : Nat) : (s.setGrid (fltGrid k) flt).candidate (r.setWeight xq k) k' i j = s.candidate r k' i j := by
  have hradius : slotRadius (s.setGrid (fltGrid k) flt).cfg (r.setWeight xq k) k = slotRadius s.cfg r k := by
    cases k <;> rfl
  by_cases hsame : k' = k
  · subst hsame
    rw [candidate_of_inactive inactive, candidate_of_inactive (hradius.trans inactive)]
  · cases k with
    | slot0 =>
      cases k' with
      | slot0 => exact absurd rfl hsame
      | slot1 => rfl
    | slot1 =>
      cases k' with
      | slot0 => rfl
      | slot1 => exact absurd rfl hsame

/-- So neither does the blend. -/
theorem dst_blendBody_of_change_inactive (inactive : slotRadius s.cfg r k = 0) (flt : Memory 32) (xq : Word) :
    (blendBody (r.setWeight xq k) (s.setGrid (fltGrid k) flt)).dst = (blendBody r s).dst := by
  have hblended : (s.setGrid (fltGrid k) flt).blended (r.setWeight xq k) = s.blended r := by
    funext i j
    rw [State.blended, candidate_of_change_inactive inactive, candidate_of_change_inactive inactive]
    cases k <;> rfl
  rw [blendBody, hblended]
  cases k <;> rfl

end

/-! The clamped sample -/

section
variable {P : Params} {r : OperandRegs}

/-- The clamp of R10, case by case. -/
theorem clamp_eq_ite {v lo hi : Int} (h : lo ≤ hi) : clamp v lo hi = if v < lo then lo else if hi < v then hi else v := by
  unfold clamp
  split_ifs <;> omega

theorem bitDepth_le_of_depthLegal (hP : P.wf) (hd : depthLegal P r = true) : r.bitDepth.toNat ≤ 12 := by
  obtain ⟨hmem, -⟩ := depthLegal_iff.1 hd
  obtain ⟨-, -, -, -, -, -, -, -, -, -, -, -, -, -, -, ⟨-, hdepths⟩, -⟩ := hP
  exact (hdepths _ hmem).2

/-- A sample cell holds the clamped value exactly (R40, R211). -/
theorem clampSample_toNat {depth : Nat} (hdepth : depth ≤ 16) (w : Word) :
    ((clampSample depth w).toNat : Int) = clamp w.toInt 0 (2 ^ depth - 1) := by
  have hcell : (2 : Int) ^ depth ≤ 2 ^ 16 := pow_le_pow_right₀ (by norm_num) hdepth
  have hpos : (1 : Int) ≤ 2 ^ depth := one_le_pow₀ (by norm_num)
  rw [clampSample, BitVec.toNat_ofInt]
  unfold clamp
  omega

theorem clampSample_le {depth : Nat} (hdepth : depth ≤ 16) (w : Word) : (clampSample depth w).toNat ≤ 2 ^ depth - 1 := by
  have hvalue := clampSample_toNat hdepth w
  have hpos : 1 ≤ 2 ^ depth := Nat.one_le_two_pow
  zify [hpos]
  rw [hvalue]
  exact min_le_right _ _

/-- A value in range is stored as it is (R211). -/
theorem clampSample_of_lt {depth : Nat} (hdepth : depth ≤ 16) {w : Word} (h : w.toNat < 2 ^ depth) :
    clampSample depth w = w.setWidth 16 := by
  have hcell : 2 ^ depth ≤ 2 ^ 16 := Nat.pow_le_pow_right (by norm_num) hdepth
  have hint : w.toInt = w.toNat := BitVec.toInt_eq_toNat_of_lt (by omega)
  have hvalue := clampSample_toNat hdepth w
  have hclamp : clamp w.toInt 0 (2 ^ depth - 1) = w.toNat := by
    have : (w.toNat : Int) < 2 ^ depth := by exact_mod_cast h
    rw [hint, clamp_eq_ite (by omega), if_neg (by omega), if_neg (by omega)]
  apply BitVec.eq_of_toNat_eq
  rw [BitVec.toNat_setWidth]
  omega

theorem srcSample_lt (s : State) (r : OperandRegs) (i j : Int) (site : Nat) :
    (s.srcSample r i j site).toNat < 2 ^ r.bitDepth.toNat := by
  rw [State.srcSample, State.sample, BitVec.toNat_ofNat]
  exact (Nat.mod_le _ _).trans_lt (Nat.mod_lt _ (by positivity))

/-- The rounding shift undoes a left shift that leaves the sign bit and the rounding constant room. -/
theorem roundShiftS_shiftLeft {x : Word} {k : Nat} (h : x.toNat * 2 ^ k + 2 ^ k / 2 < 2 ^ 31) :
    roundShiftS (x <<< k) k = x := by
  have hsum : (x <<< k + roundBias k).toNat = x.toNat * 2 ^ k + 2 ^ k / 2 := by
    rw [BitVec.toNat_add, BitVec.toNat_shiftLeft, roundBias, BitVec.toNat_ofNat, Nat.shiftLeft_eq]
    generalize 2 ^ k / 2 = bias at h ⊢
    omega
  have hsign : (x <<< k + roundBias k).msb = false := by
    rw [BitVec.msb_eq_false_iff_two_mul_lt]
    omega
  apply BitVec.eq_of_toNat_eq
  rw [roundShiftS, BitVec.sshiftRight_eq_of_msb_false hsign, BitVec.toNat_ushiftRight, hsum, Nat.shiftRight_eq_div_pow,
    Nat.mul_comm, Nat.mul_add_div (by positivity),
    Nat.div_eq_of_lt (Nat.div_lt_self (by positivity) (by norm_num)), Nat.add_zero]

end

/-! The samples stored by the blend -/

section
variable {s : State} {r : OperandRegs}

theorem complete_blendBody_frame (r : OperandRegs) (s : State) :
    complete (blendBody r s) =
      { s with dst := (complete (blendBody r s)).dst, draws := (complete (blendBody r s)).draws,
               pending := none, done := true } := rfl

/-- R210 at one unit position, slot after slot. -/
theorem blended_eq (s : State) (r : OperandRegs) (i j : Nat) :
    s.blended r i j =
      let at_ := dstAddr s.cfg r i j
      let u := s.srcSample r i j at_ <<< s.cfg.rstBits
      let v0 := u <<< s.cfg.prjBits
      let v1 := if (paramSet s.cfg r).r0 = 0 then v0 else v0 + r.xq0 * (s.readGrid .flt0 (fltAddr r i j) at_ - u)
      let v2 := if (paramSet s.cfg r).r1 = 0 then v1 else v1 + r.xq1 * (s.readGrid .flt1 (fltAddr r i j) at_ - u)
      clampSample r.bitDepth.toNat (roundShiftS v2 (s.cfg.prjBits + s.cfg.rstBits)) := by
  simp only [State.blended, blendWord_eq_accumulate, accumulate_candidate, slotRadius_slot0_eq_zero,
    slotRadius_slot1_eq_zero, OperandRegs.weight, fltGrid]

/-- The corner case of R210: with both weights 0 and these constants the blend is the sample itself. -/
theorem blended_of_weights_zero (hdepth : r.bitDepth.toNat ≤ 12) (hrst : s.cfg.rstBits = 4) (hprj : s.cfg.prjBits = 7)
    (h0 : r.xq0 = 0) (h1 : r.xq1 = 0) (i j : Nat) :
    s.blended r i j = (s.srcSample r i j (dstAddr s.cfg r i j)).setWidth 16 := by
  have hsample := srcSample_lt s r i j (dstAddr s.cfg r i j)
  have hroom : 2 ^ r.bitDepth.toNat ≤ 2 ^ 12 := Nat.pow_le_pow_right (by norm_num) hdepth
  rw [State.blended, blendWord_eq_accumulate, accumulate_candidate_of_weight_zero (k := .slot1) _ _ h1,
    accumulate_candidate_of_weight_zero (k := .slot0) _ _ h0, ← BitVec.shiftLeft_add, hrst, hprj,
    roundShiftS_shiftLeft (by omega), clampSample_of_lt (by omega) hsample]

end

/-! The statements -/

/-- Settles O40: the precise candidate is the 4/3-weighted combination at every unit position. -/
theorem finalFilterWritesUnit : Obligations.FinalFilterWritesUnit := by
  unfold Obligations.FinalFilterWritesUnit
  intro s p k held r
  obtain ⟨hunit, hother⟩ := get?_complete_interpolate (fun i j => s.preciseCandidate r i j) k r s
  refine ⟨_, exec_pending rfl held, ?frame, hunit, hother⟩
  cases k <;> rfl

/-- Settles O41: the fast candidate is the cross combination on even rows and the triple's on odd ones. -/
theorem finalFilterFastWritesUnit : Obligations.FinalFilterFastWritesUnit := by
  unfold Obligations.FinalFilterFastWritesUnit
  intro s p k held r
  obtain ⟨hunit, hother⟩ := get?_complete_interpolate (fun i j => s.fastCandidate r i j) k r s
  refine ⟨_, exec_pending rfl held, ?frame, fun i j hi hj => ⟨fun heven => ?even, fun hodd => ?odd⟩, hother⟩
  case frame => cases k <;> rfl
  case even => exact (hunit i j hi hj).trans (congrArg some (fastCandidate_even s r j heven))
  case odd => exact (hunit i j hi hj).trans (congrArg some (fastCandidate_odd s r j hodd))

/-- Settles O43: the blend's sample, slot after slot. -/
theorem blendWritesUnit : Obligations.BlendWritesUnit := by
  unfold Obligations.BlendWritesUnit
  intro s p held hg r P shift
  obtain ⟨hunit, hother⟩ := get?_blendBody (s := s) hg
  refine ⟨_, exec_pending rfl held, complete_blendBody_frame r s, ?unit, ?outside⟩
  case unit =>
    intro i j hi hj
    have hstored := (hunit i j hi hj).trans (congrArg some (blended_eq s r i j))
    rw [dstAddr_eq] at hstored
    exact hstored
  case outside =>
    intro a ha
    refine hother a fun i j hi hj => ?_
    rw [dstAddr_eq]
    exact ha i j hi hj

/-- Settles O44: a sample is stored clamped, and a legal depth fits the sample cell. -/
theorem blendResultInRange : Obligations.BlendResultInRange := by
  unfold Obligations.BlendResultInRange
  refine ⟨fun v lo hi => clamp_eq_ite, ?_⟩
  intro s p held hP hg hd
  have hdepth := bitDepth_le_of_depthLegal hP hd
  refine ⟨_, exec_pending rfl held, fun i j hi hj => ⟨_, (get?_blendBody hg).1 i j hi hj, ?_⟩⟩
  exact clampSample_le (by omega) _

/-- Settles O45: an inactive slot has no candidate, whatever its memory and its weight hold. -/
theorem blendIgnoresInactiveSlot : Obligations.BlendIgnoresInactiveSlot := by
  unfold Obligations.BlendIgnoresInactiveSlot
  intro s r xq flt t u v ht
  rw [exec_pending rfl rfl] at ht
  cases ht
  constructor
  · intro hradius hu
    rw [exec_pending rfl rfl] at hu
    cases hu
    exact dst_blendBody_of_change_inactive (k := .slot0) (s := s.withPending .blend r)
      (slotRadius_slot0_eq_zero.2 hradius) flt xq
  · intro hradius hv
    rw [exec_pending rfl rfl] at hv
    cases hv
    exact dst_blendBody_of_change_inactive (k := .slot1) (s := s.withPending .blend r)
      (slotRadius_slot1_eq_zero.2 hradius) flt xq

/-- Settles O46: neither slot adds to the scaled sample, and the rounding shift undoes the scaling. -/
theorem zeroWeightsReproduceSource : Obligations.ZeroWeightsReproduceSource := by
  unfold Obligations.ZeroWeightsReproduceSource
  intro s p held hP hrst hprj hg hd h0 h1
  refine ⟨_, exec_pending rfl held, fun i j hi hj => ?_⟩
  rw [← blended_of_weights_zero (bitDepth_le_of_depthLegal hP hd) hrst hprj h0 h1]
  exact (get?_blendBody hg).1 i j hi hj

end Sys2Proof.Machine
end

section
/-! SUPPORT. The control commands (R233 to R235), and the ways out of the error state (R234, R264, R266): the boundary keeps `ERR` but
for the reset input, and of the commands only `CLR` and `SRST` written to `CMD` clear it. -/

namespace Sys2Proof.Machine

open Sys2Proof.Config

section
variable {s t u : State} {i : Instr} {a : BitVec 22} {v : Word}

/-! The control commands -/

theorem controlCommand_idle (idle : s.pending = none) (effect : State → State) :
    controlCommand effect s = .next (effect s) := by
  simp [controlCommand, (busy_eq_false s).2 idle]

theorem controlCommand_busy (busy : s.pending ≠ none) (effect : State → State) :
    controlCommand effect s = .next (dropWrite s) := by
  have hb : s.busy = true := Option.isSome_iff_ne_none.2 busy
  simp [controlCommand, hb]

/-- `NOP` is a control command (R233). -/
theorem exec_nop (s : State) :
    exec .nop s = controlCommand (fun t => if t.err then dropWrite t else { t with done := true }) s := rfl

/-- A `NOP` that is taken (R233). -/
theorem exec_nop_taken (idle : s.pending = none) (herr : s.err = false) : exec .nop s = .next { s with done := true } := by
  simp [exec_nop, controlCommand_idle idle, herr]

/-- The write of a `NOP` is dropped in the error state, busy or not (R263, R264). -/
theorem exec_nop_of_err (herr : s.err = true) : exec .nop s = .next (dropWrite s) := by
  simp [exec_nop, controlCommand, herr]

/-- The registers that a reset value is given for (R55). -/
def resetValueRegs : List Reg :=
  [.width, .height, .srcStride, .bufStride, .depth, .paramIdx, .xq0, .xq1, .qx, .qy, .irqEn, .status, .errCmd, .result]

/-- After a soft reset they all read 0 (R235). -/
theorem readReg_resetRegisters (s : State) : ∀ x ∈ resetValueRegs, readReg (resetRegisters s) x = 0 := by
  have hreset : ∀ x ∈ resetValueRegs, readReg State.reset x = 0 := by
    decide
  intro x hx
  rw [← hreset x hx]
  cases x with
  | id | cap0 | cap1 | cap2 => exact absurd hx (by decide)
  | _ => rfl

/-! What keeps the error state -/

/-- A body does not touch `ERR` (R34, R262). -/
theorem bodyOf_err (i : Instr) (r : OperandRegs) (s : State) : (bodyOf i r s).err = s.err := by
  rw [bodyOf_onlyResultsDiffer i r s]

theorem refuseIllegal_err (w : Word) (h : s.err = true) : (refuseIllegal w s).err = true := by
  unfold refuseIllegal
  split
  · exact h
  · rfl

/-- In the error state no operation command clears `ERR`: written it is dropped, and held it only computes (R85, R264). -/
theorem exec_operation_err (hi : isOperation i = true) (herr : s.err = true) (h : exec i s = .next u) : u.err = true := by
  rw [exec_operation hi] at h
  rcases operation_cases h with ⟨-, rfl⟩ | ⟨p, -, rfl⟩
  · simp [accept, herr]
  · rw [complete_err, bodyOf_err, herr]

/-- The commands that clear `ERR` (R234, R235). -/
theorem clears_error_of_exec (herr : s.err = true) (h : exec i s = .next u) (hleft : u.err = false) : i = .clr ∨ i = .srst := by
  cases hi : isOperation i with
  | true => exact absurd (exec_operation_err hi herr h) (by simp [hleft])
  | false =>
    cases i with
    | clr => exact .inl rfl
    | srst => exact .inr rfl
    | nop =>
      rw [exec_nop_of_err herr] at h
      cases h
      exact absurd (herr.symm.trans hleft) (by decide)
    | _ => cases hi

/-- No host write that the boundary answers by itself clears `ERR` (R39, R81, R83, R262). -/
theorem hostWrite_advance_err (herr : s.err = true) (h : hostWrite a v s = .advance t) : t.err = true := by
  have hdrop : ∀ u : State, u.err = true → (if s.busy then dropWrite s else u).err = true := by
    intro u hu
    split
    · exact herr
    · exact hu
  unfold hostWrite at h
  split at h
  case h_1 => cases h
  case h_2 => cases h; exact herr
  case h_3 => cases h; exact hdrop s herr
  case h_4 m n _ => cases h; exact hdrop _ ((writeRam_errors_pending m n v s).1.trans herr)
  case h_5 =>
    split at h
    · cases h; exact herr
    · unfold writeCmd at h
      split at h <;> cases h
      exact refuseIllegal_err v herr
  case h_6 x _ _ =>
    cases h
    refine hdrop _ ?_
    rw [writeReg_frame]
    exact herr

/-- Of what the boundary does on its own only the reset input clears `ERR` (R280). -/
theorem reset_of_advance (herr : s.err = true) (h : nextAction s = .advance t) (hleft : t.err = false) :
    s.script.head? = some .rst := by
  have hkept : t.err ≠ true := by simp [hleft]
  have hturn : sequencerTurn s = .advance t → t = s := by
    intro hs
    unfold sequencerTurn at hs
    split at hs
    · cases hs; rfl
    · split at hs
      · split at hs <;> cases hs
      · cases hs
  unfold nextAction at h
  split at h
  case h_1 => exact absurd (hturn h ▸ herr) hkept
  case h_2 => exact absurd (hturn h ▸ herr) hkept
  case h_3 rest hs => rw [hs, List.head?_cons]
  case h_4 a _ _ =>
    rcases hostRead_cases a s with ⟨-, hstop⟩ | ⟨word, draws, hread⟩
    · rw [hstop] at h
      cases h
    · rw [hread] at h
      cases h
      exact absurd herr hkept
  case h_5 => exact absurd (hostWrite_advance_err herr h) hkept

/-! Where a control command comes from -/

/-- A register is reached at its own word address only (R38, R39). -/
theorem eq_busAddress_of_target {P : Params} {x : Reg} (h : target P a = .reg x) : a = busAddress x.offset := by
  have hlow : a.toNat < 19 := by
    rcases target_cases P a with ⟨_, hlt, -⟩ | ⟨-, -, ht⟩ | ⟨-, -, m, n, -, ht⟩ | ⟨-, -, w, ht⟩ | ⟨-, ht⟩
    · exact hlt
    all_goals exact absurd (ht.symm.trans h) (by simp)
  have hdiv : a.toNat / 2 ^ 18 = 0 := by omega
  have hmod : a.toNat % 2 ^ 18 = a.toNat := by omega
  simp only [target, hdiv, hmod] at h
  split at h
  case h_2 => cases h
  case h_1 y hy =>
    cases h
    have hoffset : x.offset = 4 * a.toNat := by simpa using List.find?_some hy
    apply BitVec.eq_of_toNat_eq
    rw [busAddress, hoffset, BitVec.toNat_ofNat]
    omega

/-- A host write makes a command act only as its encoding written to `CMD` (R33, R84, R116). -/
theorem command_write_of_run (h : hostWrite a v s = .run i) : a = busAddress 0x0C ∧ v = encode i := by
  unfold hostWrite at h
  split at h
  case h_5 ht =>
    split at h
    · cases h
    · unfold writeCmd at h
      split at h <;> cases h
      case h_1 hd => exact ⟨eq_busAddress_of_target ht, (encode_of_decode hd).symm⟩
  all_goals cases h

/-- A command that is no operation acts only when it is written to `CMD` (R84 step 3). -/
theorem head_of_control_run (hi : isOperation i = false) (h : nextAction s = .run i) :
    s.script.head? = some (.write (busAddress 0x0C) (encode i)) := by
  have hturn : sequencerTurn s ≠ .run i := by
    intro hs
    rcases commandSource_of_sequencerTurn hs with ⟨idle, -, -⟩ | ⟨-, -, -, operation⟩
    · simp [sequencerTurn, idle] at hs
    · exact absurd (operation.symm.trans hi) (by decide)
  unfold nextAction at h
  split at h
  case h_1 => exact absurd h hturn
  case h_2 => exact absurd h hturn
  case h_3 => cases h
  case h_4 a _ _ => rcases hostRead_cases a s with ⟨-, hread⟩ | ⟨_, _, hread⟩ <;> simp [hread] at h
  case h_5 hs =>
    obtain ⟨rfl, rfl⟩ := command_write_of_run h
    rw [hs, List.head?_cons]

end

/-! The statements -/

/-- Settles O13: in the error state and while the block is busy the write is dropped. -/
theorem nopSetsDone : Obligations.NopSetsDone := by
  unfold Obligations.NopSetsDone
  refine ⟨rfl, fun s => ⟨exec_nop_taken, fun h => ?_⟩⟩
  rcases h with busy | herr
  · rw [exec_nop, controlCommand_busy busy, dropWrite]
  · exact exec_nop_of_err herr

/-- Settles O14: an idle block takes `CLR` whatever its error state. -/
theorem clrClearsFlags : Obligations.ClrClearsFlags := by
  unfold Obligations.ClrClearsFlags
  exact ⟨rfl, fun s idle => controlCommand_idle idle _⟩

/-- Settles O15: an idle block takes `SRST` whatever its error state. -/
theorem srstResetsRegisters : Obligations.SrstResetsRegisters := by
  unfold Obligations.SrstResetsRegisters
  refine ⟨rfl, fun s => ⟨fun idle => ⟨_, controlCommand_idle idle _, readReg_resetRegisters s, ?frame⟩,
    fun busy => controlCommand_busy busy _⟩⟩
  case frame =>
    rw [idle]
    rfl

/-- Settles O11: a step that clears `ERR` is the reset input, or a control command's write. -/
theorem onlyClearLeavesErrorState : Obligations.OnlyClearLeavesErrorState := by
  unfold Obligations.OnlyClearLeavesErrorState
  intro s t herr hstep hleft
  rcases step_cases hstep with ⟨i, u, hrun, hexec, rfl⟩ | ⟨u, hadvance, rfl⟩
  · rcases clears_error_of_exec herr hexec hleft with rfl | rfl
    · exact .inr (.inl (head_of_control_run rfl hrun))
    · exact .inr (.inr (head_of_control_run rfl hrun))
  · exact .inl (reset_of_advance herr hadvance hleft)

end Sys2Proof.Machine
end

section
/-! SUPPORT. The body of `RESTORE` (R230, R232): what the pair of one slot writes and leaves, slot by slot, and what all of it leaves. -/

namespace Sys2Proof.Machine

open Sys2Proof.Config

@[simp] theorem grid_fltGrid_slot0 (s : State) : s.grid (fltGrid .slot0) = s.flt0 := rfl

@[simp] theorem grid_fltGrid_slot1 (s : State) : s.grid (fltGrid .slot1) = s.flt1 := rfl

/-- The positions the estimator of a slot takes: slot 0 has the fast pair, slot 1 the precise one (R230). -/
def slotCells (r : OperandRegs) : Slot → List (Int × Int)
  | .slot0 => fastWindow r
  | .slot1 => preciseWindow r

/-- The candidate of a slot's interpolator (R200, R203, R230). -/
def State.slotCandidate (s : State) (r : OperandRegs) : Slot → Nat → Nat → Word
  | .slot0 => s.fastCandidate r
  | .slot1 => s.preciseCandidate r

/-- The state after a slot's estimator (R230). -/
def slotEstimate (k : Slot) (r : OperandRegs) (s : State) : State :=
  estimate (slotCells r k) k r s

/-- A slot's pair, run when its radius is not 0 (R230, R232). -/
def runSlot (k : Slot) (r : OperandRegs) (s : State) : State :=
  if slotRadius s.cfg r k = 0 then s else interpolate ((slotEstimate k r s).slotCandidate r k) k r (slotEstimate k r s)

/-- The images once, then the two slots' pairs (R230). -/
theorem restoreBody_eq (r : OperandRegs) (s : State) :
    restoreBody r s = runSlot .slot1 r (runSlot .slot0 r (buildImages r s)) := rfl

theorem slotCells_subset (r : OperandRegs) (k : Slot) : ∀ q ∈ slotCells r k, q ∈ preciseWindow r := by
  cases k with
  | slot0 => exact fun _ => fastWindow_subset
  | slot1 => exact fun _ => id

section
variable {s : State} {r : OperandRegs} {k k' : Slot}

theorem runSlot_of_inactive (inactive : slotRadius s.cfg r k = 0) : runSlot k r s = s :=
  if_pos inactive

theorem runSlot_of_active (active : slotRadius s.cfg r k ≠ 0) :
    runSlot k r s = interpolate ((slotEstimate k r s).slotCandidate r k) k r (slotEstimate k r s) :=
  if_neg active

/-- What a slot's pair leaves: it changes `A`, `B`, its candidates and the draw counter only. -/
theorem runSlot_frame (k : Slot) (r : OperandRegs) (s : State) :
    runSlot k r s = { s with gridA := (runSlot k r s).gridA, gridB := (runSlot k r s).gridB, flt0 := (runSlot k r s).flt0,
                             flt1 := (runSlot k r s).flt1, draws := (runSlot k r s).draws } := by
  unfold runSlot
  split
  · rfl
  · cases k <;> rfl

@[simp] theorem runSlot_cfg (k : Slot) (r : OperandRegs) (s : State) : (runSlot k r s).cfg = s.cfg := by
  rw [runSlot_frame]

@[simp] theorem runSlot_src (k : Slot) (r : OperandRegs) (s : State) : (runSlot k r s).src = s.src := by
  rw [runSlot_frame]

@[simp] theorem runSlot_gridC (k : Slot) (r : OperandRegs) (s : State) : (runSlot k r s).gridC = s.gridC := by
  rw [runSlot_frame]

@[simp] theorem runSlot_gridD (k : Slot) (r : OperandRegs) (s : State) : (runSlot k r s).gridD = s.gridD := by
  rw [runSlot_frame]

/-- The candidates of the other slot stay. -/
theorem grid_runSlot_of_ne (h : k' ≠ k) (r : OperandRegs) (s : State) :
    (runSlot k r s).grid (fltGrid k') = s.grid (fltGrid k') := by
  have hflt : fltGrid k' ≠ fltGrid k := by
    cases k <;> cases k' <;> first | exact absurd rfl h | decide
  unfold runSlot
  split
  · rfl
  · rw [interpolate_eq, grid_nextDraws, grid_setGrid, if_neg hflt]
    cases k' <;> rfl

/-- A slot's pair leaves `FLTk` beyond the unit as it was (R206). -/
theorem get?_runSlot_flt_beyond (k k' : Slot) (r : OperandRegs) (s : State) {a : Nat}
    (ha : r.width.toNat * r.height.toNat ≤ a) :
    Memory.get? ((runSlot k r s).grid (fltGrid k')) a = Memory.get? (s.grid (fltGrid k')) a := by
  by_cases hk : k' = k
  · subst hk
    by_cases active : slotRadius s.cfg r k' = 0
    · rw [runSlot_of_inactive active]
    · rw [runSlot_of_active active, (get?_interpolate _ k' r _).2 a ha]
      cases k' <;> rfl
  · rw [grid_runSlot_of_ne hk]

/-- A slot's pair leaves `A` and `B` outside the window as they were (R180). -/
theorem get?_runSlot_outside (hP : s.cfg.wf) (hg : geometryLegal s.cfg r = true) (k : Slot) {a : Nat}
    (ha : ∀ q ∈ preciseWindow r, posAddr s.cfg r q.1 q.2 ≠ a) :
    Memory.get? (runSlot k r s).gridA a = Memory.get? s.gridA a ∧
    Memory.get? (runSlot k r s).gridB a = Memory.get? s.gridB a := by
  have hother := (get?_estimate (k := k) (posAddr_inj_of_subset hP hg (slotCells_subset r k))).2 a
    fun q hq => ha q (slotCells_subset r k q hq)
  by_cases active : slotRadius s.cfg r k = 0
  · rw [runSlot_of_inactive active]
    exact ⟨rfl, rfl⟩
  · rw [runSlot_of_active active]
    cases k <;> exact hother

/-! The whole body -/

/-- What `RESTORE` leaves: it changes the grids, the left sums and the draw counter only. -/
theorem restoreBody_frame (r : OperandRegs) (s : State) :
    restoreBody r s =
      { s with gridC := (restoreBody r s).gridC, gridD := (restoreBody r s).gridD, gridA := (restoreBody r s).gridA,
               gridB := (restoreBody r s).gridB, flt0 := (restoreBody r s).flt0, flt1 := (restoreBody r s).flt1,
               left1 := (restoreBody r s).left1, left2 := (restoreBody r s).left2, draws := (restoreBody r s).draws } := by
  rw [restoreBody_eq, runSlot_frame .slot1, runSlot_frame .slot0, buildImages_frame]

@[simp] theorem restoreBody_cfg (r : OperandRegs) (s : State) : (restoreBody r s).cfg = s.cfg := by
  rw [restoreBody_frame]

@[simp] theorem restoreBody_dst (r : OperandRegs) (s : State) : (restoreBody r s).dst = s.dst := by
  rw [restoreBody_frame]

@[simp] theorem buildImages_cfg (r : OperandRegs) (s : State) : (buildImages r s).cfg = s.cfg := by
  rw [buildImages_frame]

theorem grid_buildImages_flt (k : Slot) (r : OperandRegs) (s : State) :
    (buildImages r s).grid (fltGrid k) = s.grid (fltGrid k) := by
  rw [buildImages_frame]
  cases k <;> rfl

@[simp] theorem restoreBody_gridC (r : OperandRegs) (s : State) : (restoreBody r s).gridC = (buildImages r s).gridC := by
  rw [restoreBody_eq, runSlot_gridC, runSlot_gridC]

@[simp] theorem restoreBody_gridD (r : OperandRegs) (s : State) : (restoreBody r s).gridD = (buildImages r s).gridD := by
  rw [restoreBody_eq, runSlot_gridD, runSlot_gridD]

/-- The candidates of an inactive slot stay (R232). -/
theorem grid_restoreBody_of_inactive (inactive : slotRadius s.cfg r k = 0) :
    (restoreBody r s).grid (fltGrid k) = s.grid (fltGrid k) := by
  rw [restoreBody_eq, ← grid_buildImages_flt k r s]
  cases k with
  | slot0 => rw [grid_runSlot_of_ne (by decide), runSlot_of_inactive (by simpa using inactive)]
  | slot1 => rw [runSlot_of_inactive (by simpa using inactive), grid_runSlot_of_ne (by decide)]

/-- No candidate is written beyond the unit (R206). -/
theorem get?_restoreBody_flt_beyond (k : Slot) {a : Nat} (ha : r.width.toNat * r.height.toNat ≤ a) :
    Memory.get? ((restoreBody r s).grid (fltGrid k)) a = Memory.get? (s.grid (fltGrid k)) a := by
  rw [restoreBody_eq, get?_runSlot_flt_beyond _ _ _ _ ha, get?_runSlot_flt_beyond _ _ _ _ ha, grid_buildImages_flt]

/-- No pair is written outside the window (R180). -/
theorem get?_restoreBody_outside (hP : s.cfg.wf) (hg : geometryLegal s.cfg r = true) {a : Nat}
    (ha : ∀ q ∈ preciseWindow r, posAddr s.cfg r q.1 q.2 ≠ a) :
    Memory.get? (restoreBody r s).gridA a = Memory.get? s.gridA a ∧
    Memory.get? (restoreBody r s).gridB a = Memory.get? s.gridB a := by
  have hslot (u : State) (k : Slot) (hcfg : u.cfg = s.cfg) :
      Memory.get? (runSlot k r u).gridA a = Memory.get? u.gridA a ∧
      Memory.get? (runSlot k r u).gridB a = Memory.get? u.gridB a :=
    get?_runSlot_outside (hcfg ▸ hP) (hcfg ▸ hg) k (hcfg ▸ ha)
  have himages := buildImages_cfg r s
  obtain ⟨hA1, hB1⟩ := hslot (runSlot .slot0 r (buildImages r s)) .slot1 ((runSlot_cfg _ _ _).trans himages)
  obtain ⟨hA0, hB0⟩ := hslot (buildImages r s) .slot0 himages
  rw [restoreBody_eq, hA1, hB1, hA0, hB0, buildImages_frame]
  exact ⟨rfl, rfl⟩

theorem holdsImages_complete {f : Nat → Nat → Nat} : holdsImages (complete s) r f ↔ holdsImages s r f := Iff.rfl

/-- The images of the bordered plane stay through both slots (R141, R230). -/
theorem holdsImages_restoreBody (hg : geometryLegal s.cfg r = true) : holdsImages (restoreBody r s) r (planeSample s r) := by
  have himages := holdsImages_buildImages (s := s) hg
  unfold holdsImages at himages ⊢
  simpa using himages

end

/-- Settles O47: the images are the builder's, and neither slot's pair writes outside the window and the unit. -/
theorem restoreWrites : Obligations.RestoreWrites := by
  unfold Obligations.RestoreWrites
  intro s p held hP hpass r
  have hg := (legal_of_accepted rfl hpass).2
  refine ⟨complete (restoreBody r s), exec_pending rfl held, ?frame, ?images, fun h0 => ?inactive0, fun h1 => ?inactive1,
    fun a ha => ?footprint, fun a ha => ?window, fun a ha => ?unit⟩
  case frame => exact congrArg complete (restoreBody_frame r s)
  case inactive0 => simpa using grid_restoreBody_of_inactive (k := .slot0) (slotRadius_slot0_eq_zero.2 h0)
  case inactive1 => simpa using grid_restoreBody_of_inactive (k := .slot1) (slotRadius_slot1_eq_zero.2 h1)
  case unit => simpa using And.intro (get?_restoreBody_flt_beyond (s := s) .slot0 ha) (get?_restoreBody_flt_beyond .slot1 ha)
  case images => exact holdsImages_complete.2 (holdsImages_restoreBody hg)
  case footprint =>
    rw [complete_gridC, complete_gridD, restoreBody_gridC, restoreBody_gridD]
    exact get?_buildImages_outside hg ha
  case window =>
    rw [complete_gridA, complete_gridB]
    exact get?_restoreBody_outside hP hg fun q hq => by
      obtain ⟨⟨htop, hbottom⟩, hleft, hright⟩ := mem_preciseWindow.1 hq
      exact ha q.1 q.2 htop hbottom hleft hright

end Sys2Proof.Machine
end

section
/-! SUPPORT. The composite commands against their primitives (R230, R231, R236): a body does not depend on `PENDING`, `DONE` and the
script, so a composite's body and the bodies of its primitives, run one by one through the port, do the same. -/

namespace Sys2Proof.Machine

open Sys2Proof.Config

/-- The state with other contents of what the two steps of a command and the boundary change around its body (R84, R85). -/
def State.withControl (s : State) (held : Option Pending) (done : Bool) (script : List HostEvent) : State :=
  { s with pending := held, done := done, script := script }

section
variable {s : State} {r : OperandRegs} {held : Option Pending} {done : Bool} {script : List HostEvent}

theorem withPending_eq_withControl (s : State) (i : Instr) (r : OperandRegs) :
    s.withPending i r = s.withControl (some ⟨encode i, r⟩) false s.script := rfl

@[simp] theorem withControl_withControl (s : State) (held held' : Option Pending) (done done' : Bool)
    (script script' : List HostEvent) :
    (s.withControl held done script).withControl held' done' script' = s.withControl held' done' script' := rfl

@[simp] theorem withControl_dst (s : State) (held : Option Pending) (done : Bool) (script : List HostEvent) :
    (s.withControl held done script).dst = s.dst := rfl

/-! A body does not depend on them -/

/-- A loop whose body does not depend on them does not either. -/
theorem foldl_withControl {α : Type} {f : State → α → State}
    (hf : ∀ u x, f (u.withControl held done script) x = (f u x).withControl held done script) (l : List α) (s : State) :
    l.foldl f (s.withControl held done script) = (l.foldl f s).withControl held done script :=
  List.foldl_hom (fun u : State => u.withControl held done script) hf

/-- The zero column of a row and the left sums at 0: where the active columns begin (R140). -/
def rowStart (r : OperandRegs) (y : Nat) (s : State) : State :=
  { clearImageCell (iiAddr r y 0) s with left1 := 0, left2 := 0 }

theorem buildRow_eq (r : OperandRegs) (s : State) (y : Nat) :
    buildRow r s y = (List.range' (widthExt s.cfg r + 1) s.cfg.zpad).foldl (fun t x => clearImageCell (iiAddr r y x) t)
      ((List.range' 1 (widthExt s.cfg r)).foldl (buildCell r y) (rowStart r y s)) := rfl

theorem buildRow_withControl (s : State) (y : Nat) :
    buildRow r (s.withControl held done script) y = (buildRow r s y).withControl held done script := by
  have hfill : (List.range' 1 (widthExt s.cfg r)).foldl (buildCell r y) (rowStart r y (s.withControl held done script)) =
      ((List.range' 1 (widthExt s.cfg r)).foldl (buildCell r y) (rowStart r y s)).withControl held done script :=
    foldl_withControl (fun _ _ => rfl) _ (rowStart r y s)
  rw [buildRow_eq, buildRow_eq, ← foldl_withControl fun _ _ => rfl, ← hfill]
  rfl

theorem buildZeroRow_withControl (r : OperandRegs) (s : State) :
    buildZeroRow r (s.withControl held done script) = (buildZeroRow r s).withControl held done script :=
  foldl_withControl (fun _ _ => rfl) _ s

theorem buildImages_withControl (r : OperandRegs) (s : State) :
    buildImages r (s.withControl held done script) = (buildImages r s).withControl held done script := by
  simp only [buildImages, buildZeroRow_withControl]
  exact congrArg State.nextDraws (foldl_withControl buildRow_withControl _ _)

theorem interpolate_withControl (value : Nat → Nat → Word) (k : Slot) (r : OperandRegs) (s : State) :
    interpolate value k r (s.withControl held done script) = (interpolate value k r s).withControl held done script := by
  cases k <;> rfl

theorem finalFilterBody_withControl (k : Slot) (r : OperandRegs) (s : State) :
    finalFilterBody k r (s.withControl held done script) = (finalFilterBody k r s).withControl held done script :=
  interpolate_withControl _ k r s

theorem finalFilterFastBody_withControl (k : Slot) (r : OperandRegs) (s : State) :
    finalFilterFastBody k r (s.withControl held done script) = (finalFilterFastBody k r s).withControl held done script :=
  interpolate_withControl _ k r s

theorem runSlot_withControl (k : Slot) (r : OperandRegs) (s : State) :
    runSlot k r (s.withControl held done script) = (runSlot k r s).withControl held done script := by
  unfold runSlot
  rw [apply_ite (State.withControl · held done script), ← interpolate_withControl]
  cases k <;> rfl

theorem restoreBody_withControl (r : OperandRegs) (s : State) :
    restoreBody r (s.withControl held done script) = (restoreBody r s).withControl held done script := by
  simp only [restoreBody_eq, buildImages_withControl, runSlot_withControl]

theorem blendBody_withControl (r : OperandRegs) (s : State) :
    blendBody r (s.withControl held done script) = (blendBody r s).withControl held done script := rfl

theorem blendBody_withControl_frame (r : OperandRegs) (s : State) :
    (blendBody r s).withControl held done script =
      { s.withControl held done script with dst := ((blendBody r s).withControl held done script).dst,
                                            draws := ((blendBody r s).withControl held done script).draws } := rfl

theorem applyBody_withControl (r : OperandRegs) (s : State) :
    applyBody r (s.withControl held done script) = (applyBody r s).withControl held done script := by
  simp only [applyBody, restoreBody_withControl, blendBody_withControl]

theorem bodyOf_withControl (i : Instr) (r : OperandRegs) (s : State) :
    bodyOf i r (s.withControl held done script) = (bodyOf i r s).withControl held done script := by
  cases i with
  | buildII => exact buildImages_withControl r s
  | finalFilter k => exact finalFilterBody_withControl k r s
  | finalFilterFast k => exact finalFilterFastBody_withControl k r s
  | restore => exact restoreBody_withControl r s
  | apply => exact applyBody_withControl r s
  | nop | clr | srst | boxsum | calcAb | calcAbFast => rfl
  | blend => exact blendBody_withControl r s

/-- A pending command leaves what its body leaves of the state without it, completed (R85). -/
theorem exec_withPending {i : Instr} (operation : isOperation i = true) (r : OperandRegs) (s : State) :
    exec i (s.withPending i r) = .next ((bodyOf i r s).withControl none true s.script) := by
  rw [exec_pending operation rfl, withPending_eq_withControl, bodyOf_withControl]
  rfl

end

/-! The host script of commands -/

section
variable {s : State} {r : OperandRegs} {P : Params} {i : Instr} {cmds : List Instr}

/-- The bodies of some commands, one after the other, on one snapshot. -/
def runBodies (cmds : List Instr) (r : OperandRegs) (s : State) : State :=
  cmds.foldl (fun u i => bodyOf i r u) s

@[simp] theorem runBodies_cons (i : Instr) (cmds : List Instr) (r : OperandRegs) (s : State) :
    runBodies (i :: cmds) r s = runBodies cmds r (bodyOf i r s) := rfl

theorem runBodies_append (cmds cmds' : List Instr) (r : OperandRegs) (s : State) :
    runBodies (cmds ++ cmds') r s = runBodies cmds' r (runBodies cmds r s) :=
  List.foldl_append

/-- An operation command whose word decodes to it and that passes its checks (R84, R251). -/
def Accepted (P : Params) (r : OperandRegs) (i : Instr) : Prop :=
  isOperation i = true ∧ i.wellFormed = true ∧ firstFailure i P r = none

/-- A run goes on after a step. -/
theorem run_succ {t : State} (h : step s = .next t) (n : Nat) :
    Host.Core.run Sys2Proof.core (n + 1) s = Host.Core.run Sys2Proof.core n t := by
  have hstep : Sys2Proof.core.step s = .next t := h
  exact (Host.Core.run.eq_2 Sys2Proof.core s n).trans (by rw [hstep])

/-- One command of a script: its write is accepted, and on the grant it completes (R84, R85, R118). -/
theorem run_command (herr : s.err = false) (haccepted : Accepted s.cfg s.regs i) (done : Bool) (n : Nat) :
    Host.Core.run Sys2Proof.core (n + 2) (s.withControl none done (commandScript (i :: cmds))) =
      Host.Core.run Sys2Proof.core n ((bodyOf i s.regs s).withControl none true (commandScript cmds)) := by
  obtain ⟨operation, hwf, hpass⟩ := haccepted
  obtain ⟨t, u, hwrite, ht, hexec, hgrant, -⟩ := commandRunsInTwoSteps (s.withControl none done (commandScript (i :: cmds))) i
    (commandScript cmds) operation hwf rfl herr hpass rfl
  have hheld : t = (s.withControl none false (.grant :: commandScript cmds)).withPending i s.regs := ht
  rw [hheld, exec_withPending operation, bodyOf_withControl, withControl_withControl] at hexec
  cases hexec
  have hrest : ((bodyOf i s.regs s).withControl none true (.grant :: commandScript cmds)).retire =
      (bodyOf i s.regs s).withControl none true (commandScript cmds) := rfl
  exact (run_succ hwrite _).trans ((run_succ hgrant _).trans (congrArg _ hrest))

/-- A script of accepted commands runs their bodies on the registers, and `DONE` tells whether there was one (R118, R119). -/
theorem run_commandScript (herr : s.err = false) (haccepted : ∀ i ∈ cmds, Accepted s.cfg s.regs i) (done : Bool) :
    Host.Core.run Sys2Proof.core (2 * cmds.length) (s.withControl none done (commandScript cmds)) =
      .next ((runBodies cmds s.regs s).withControl none (done || !cmds.isEmpty) []) := by
  induction cmds generalizing s done with
  | nil => simp [Host.Core.run, runBodies, commandScript]
  | cons i cmds ih =>
    have hbody := bodyOf_onlyResultsDiffer i s.regs s
    have hregs : (bodyOf i s.regs s).regs = s.regs := by rw [hbody]
    have herr' : (bodyOf i s.regs s).err = false := by rw [bodyOf_err, herr]
    have hrest : ∀ j ∈ cmds, Accepted (bodyOf i s.regs s).cfg (bodyOf i s.regs s).regs j := fun j hj => by
      rw [bodyOf_cfg, hregs]
      exact haccepted j (List.mem_cons_of_mem i hj)
    rw [List.length_cons, Nat.mul_succ, run_command herr (haccepted i List.mem_cons_self), ih herr' hrest, hregs]
    simp

/-- The same from an idle block, as the statements run it. -/
theorem runCommands_eq (idle : s.pending = none) (herr : s.err = false) (haccepted : ∀ i ∈ cmds, Accepted s.cfg s.regs i)
    (hne : cmds ≠ []) : runCommands cmds s = .next ((runBodies cmds s.regs s).withControl none true []) := by
  have hstart : { s with script := commandScript cmds } = s.withControl none s.done (commandScript cmds) := by
    rw [← idle]
    rfl
  have hsome : (s.done || !cmds.isEmpty) = true := by simp [hne]
  have hrun := run_commandScript herr haccepted s.done
  rw [hsome] at hrun
  rw [runCommands, hstart]
  exact hrun

/-! The primitives of a composite -/

theorem firstFailure_eq_none_iff : firstFailure i P r = none ↔ ∀ e ∈ checksOf i, checkFails i P r e = false := by
  simp [firstFailure]

/-- The composites and `BLEND` have the same checks (R259). -/
theorem firstFailure_apply (P : Params) (r : OperandRegs) : firstFailure .apply P r = firstFailure .restore P r := rfl

theorem firstFailure_blend (P : Params) (r : OperandRegs) : firstFailure .blend P r = firstFailure .restore P r := rfl

/-- Only the check of the named slot tells two commands apart (R252 to R258). -/
theorem checkFails_eq_of_ne {e : ErrCode} (he : e ≠ .slotInactive) (i j : Instr) :
    checkFails i P r e = checkFails j P r e := by
  cases e with
  | slotInactive => exact absurd rfl he
  | _ => rfl

/-- A primitive of an active slot passes its checks where `RESTORE` does (R258, R259). -/
theorem firstFailure_slot_primitive {k : Slot} (h : firstFailure .restore P r = none) (hchecks : checksOf i = slotChecks)
    (hslot : namedSlot i = some k) (active : slotRadius P r k ≠ 0) : firstFailure i P r = none := by
  have hshared : ∀ e ∈ slotChecks, e ≠ .slotInactive → e ∈ checksOf .restore := by decide
  rw [firstFailure_eq_none_iff] at h ⊢
  intro e he
  by_cases hnamed : e = .slotInactive
  · simp [hnamed, checkFails, hslot, active]
  · rw [checkFails_eq_of_ne hnamed i .restore]
    exact h e (hshared e (hchecks ▸ he) hnamed)

/-- `BUILD_II` has the first of the checks of `RESTORE` (R259). -/
theorem firstFailure_buildII (h : firstFailure .restore P r = none) : firstFailure .buildII P r = none := by
  have hshared : ∀ e ∈ geometryChecks, e ≠ .slotInactive ∧ e ∈ checksOf .restore := by decide
  rw [firstFailure_eq_none_iff] at h ⊢
  intro e he
  obtain ⟨hnamed, hmem⟩ := hshared e he
  rw [checkFails_eq_of_ne hnamed .buildII .restore]
  exact h e hmem

/-- The pair of primitives of an active slot (R230). -/
def slotPrimitives (P : Params) (r : OperandRegs) (k : Slot) : List Instr :=
  if slotRadius P r k = 0 then []
  else match k with
    | .slot0 => [.calcAbFast .slot0, .finalFilterFast .slot0]
    | .slot1 => [.calcAb .slot1, .finalFilter .slot1]

theorem restorePrimitives_eq (P : Params) (r : OperandRegs) :
    restorePrimitives P r = [.buildII] ++ slotPrimitives P r .slot0 ++ slotPrimitives P r .slot1 := rfl

/-- Where `RESTORE` passes its checks the pair of an active slot does. -/
theorem accepted_of_slotPrimitives (h : firstFailure .restore P r = none) (k : Slot) :
    ∀ i ∈ slotPrimitives P r k, Accepted P r i := by
  intro i hi
  unfold slotPrimitives at hi
  split at hi
  case isTrue => cases hi
  case isFalse active =>
    have hslot : isOperation i = true ∧ i.wellFormed = true ∧ checksOf i = slotChecks ∧ namedSlot i = some k := by
      cases k <;> rcases List.mem_pair.1 hi with rfl | rfl <;> exact ⟨rfl, rfl, rfl, rfl⟩
    obtain ⟨operation, hwf, hchecks, hnamed⟩ := hslot
    exact ⟨operation, hwf, firstFailure_slot_primitive h hchecks hnamed active⟩

/-- Where `RESTORE` passes its checks each of its primitives does (R236). -/
theorem accepted_of_restorePrimitives (h : firstFailure .restore P r = none) :
    ∀ i ∈ restorePrimitives P r, Accepted P r i := by
  intro i hi
  simp only [restorePrimitives_eq, List.mem_append, List.mem_singleton] at hi
  rcases hi with (rfl | hi) | hi
  · exact ⟨rfl, rfl, firstFailure_buildII h⟩
  · exact accepted_of_slotPrimitives h .slot0 i hi
  · exact accepted_of_slotPrimitives h .slot1 i hi

/-- The bodies of a slot's primitives are the slot's part of `RESTORE` (R230, R232). -/
theorem runBodies_slotPrimitives (k : Slot) (r : OperandRegs) (s : State) :
    runBodies (slotPrimitives s.cfg r k) r s = runSlot k r s := by
  unfold slotPrimitives runSlot
  split
  · rfl
  · cases k <;> rfl

/-- The primitives' bodies make up the body of `RESTORE` (R230). -/
theorem runBodies_restorePrimitives (r : OperandRegs) (s : State) :
    runBodies (restorePrimitives s.cfg r) r s = restoreBody r s := by
  have himages : runBodies [.buildII] r s = buildImages r s := rfl
  have hslot0 := runBodies_slotPrimitives .slot0 r (buildImages r s)
  have hslot1 := runBodies_slotPrimitives .slot1 r (runSlot .slot0 r (buildImages r s))
  rw [buildImages_cfg] at hslot0
  rw [runSlot_cfg, buildImages_cfg] at hslot1
  rw [restorePrimitives_eq, runBodies_append, runBodies_append, himages, hslot0, hslot1, restoreBody_eq]

theorem restorePrimitives_ne_nil (P : Params) (r : OperandRegs) : restorePrimitives P r ≠ [] := by
  simp [restorePrimitives]

end

/-! The statements -/

/-- Settles O48: the control fields that the two completions and acceptances change reach neither body. -/
theorem applyIsRestoreThenBlend : Obligations.ApplyIsRestoreThenBlend := by
  unfold Obligations.ApplyIsRestoreThenBlend
  intro s r _ hpass
  have hg := (legal_of_accepted rfl hpass).2
  refine ⟨(restoreBody r s).withControl none true s.script, (applyBody r s).withControl none true s.script,
    exec_withPending rfl r s, (exec_withPending rfl r _).trans ?_, exec_withPending rfl r s, ?frame, fun a ha => ?dst⟩
  · rw [bodyOf_withControl, withControl_withControl]
    rfl
  case frame => exact blendBody_withControl_frame r (restoreBody r s)
  case dst =>
    have hcfg := restoreBody_cfg r s
    rw [withControl_dst, applyBody, (get?_blendBody (hcfg ▸ hg)).2 a fun i j hi hj => hcfg ▸ ha i j hi hj, restoreBody_dst]

/-- Settles O49: both scripts run the same bodies on the same registers. -/
theorem compositesEqualPrimitives : Obligations.CompositesEqualPrimitives := by
  unfold Obligations.CompositesEqualPrimitives
  intro s idle herr
  constructor
  · intro hpass
    have hone : ∀ i ∈ [Instr.restore], Accepted s.cfg s.regs i := by
      simp [Accepted, isOperation, Instr.wellFormed, hpass]
    refine ⟨_, runCommands_eq idle herr hone (by simp), ?_⟩
    rw [runCommands_eq idle herr (accepted_of_restorePrimitives hpass) (restorePrimitives_ne_nil _ _),
      runBodies_restorePrimitives]
    rfl
  · intro hpass
    rw [firstFailure_apply] at hpass
    have hone : ∀ i ∈ [Instr.apply], Accepted s.cfg s.regs i := by
      simp [Accepted, isOperation, Instr.wellFormed, firstFailure_apply, hpass]
    have hall : ∀ i ∈ restorePrimitives s.cfg s.regs ++ [.blend], Accepted s.cfg s.regs i := by
      intro i hi
      rcases List.mem_append.1 hi with hi | hi
      · exact accepted_of_restorePrimitives hpass i hi
      · rw [List.mem_singleton.1 hi]
        exact ⟨rfl, rfl, (firstFailure_blend _ _).trans hpass⟩
    refine ⟨_, runCommands_eq idle herr hone (by simp), ?_⟩
    rw [runCommands_eq idle herr hall (by simp), runBodies_append, runBodies_restorePrimitives]
    rfl

end Sys2Proof.Machine
end

section
/-! SUPPORT. What the composites read (R238, R284): over a written plane the images, and with them the pairs, the candidates and the
blend of the active slots, are the same for two blocks that share no more than the record, the snapshot and the plane. -/

namespace Sys2Proof.Machine

open Sys2Proof.Config

/-! The plane and its images -/

section
variable {f g : Nat → Nat → Nat} {s s' : State} {r : OperandRegs}

theorem prefixSum_congr {y x : Nat} (h : ∀ py < y, ∀ px < x, f py px = g py px) : prefixSum f y x = prefixSum g y x :=
  Finset.sum_congr rfl fun py hy => Finset.sum_congr rfl fun px hx => h py (Finset.mem_range.1 hy) px (Finset.mem_range.1 hx)

/-- The images of a plane depend on the bordered plane only (R141). -/
theorem holdsImages_congr (himg : holdsImages s r f)
    (h : ∀ py < heightExt s.cfg r, ∀ px < widthExt s.cfg r, f py px = g py px) : holdsImages s r g := by
  intro y x hy hx
  obtain ⟨hD, hC⟩ := himg y x hy hx
  have hplane : ∀ py < y, ∀ px < x, f py px = g py px := fun py hpy px hpx => h py (by omega) px (by omega)
  rw [← prefixSum_congr hplane, ← prefixSum_congr fun py hpy px hpx => congrArg (· ^ 2) (hplane py hpy px hpx)]
  exact ⟨hD, hC⟩

/-- Two blocks with the same record and the same written bordered plane (R283). -/
structure SamePlane (r : OperandRegs) (s s' : State) : Prop where
  cfg : s'.cfg = s.cfg
  src : s'.src = s.src
  written : planeWritten s r

/-- A sample of the written plane is no draw, so it is the same for every place it is read for (R42, R43). -/
theorem SamePlane.sample_eq (h : SamePlane r s s') {py px : Nat} (hy : py < heightExt s.cfg r) (hx : px < widthExt s.cfg r)
    (site : Nat) : s'.sample r (py * r.srcStride.toNat + px) site = s.sample r (py * r.srcStride.toNat + px) site := by
  obtain ⟨v, hv⟩ := Option.ne_none_iff_exists'.1 (h.written py px hy hx)
  simp only [State.sample, State.readPlane, State.plane, h.src, hv]

theorem SamePlane.planeSample_eq (h : SamePlane r s s') {py px : Nat} (hy : py < heightExt s.cfg r)
    (hx : px < widthExt s.cfg r) : planeSample s' r py px = planeSample s r py px :=
  congrArg BitVec.toNat (h.sample_eq hy hx _)

/-- The samples of the unit lie in the bordered plane (R71). -/
theorem SamePlane.srcSample_eq (h : SamePlane r s s') {i j : Nat} (hi : i < r.height.toNat) (hj : j < r.width.toNat)
    (site : Nat) : s'.srcSample r i j site = s.srcSample r i j site := by
  have hy : i + s.cfg.borderV < heightExt s.cfg r := by
    unfold heightExt
    omega
  have hx : j + s.cfg.borderH < widthExt s.cfg r := by
    unfold widthExt
    omega
  simp only [State.srcSample, srcAddr_eq, h.cfg]
  exact h.sample_eq hy hx site

/-- Two blocks that agree on all a slot's pair reads: the plane and the images of one plane. -/
structure SameInputs (r : OperandRegs) (f : Nat → Nat → Nat) (s s' : State) : Prop extends SamePlane r s s' where
  images : holdsImages s r f
  images' : holdsImages s' r f

@[simp] theorem buildImages_src (r : OperandRegs) (s : State) : (buildImages r s).src = s.src := by
  rw [buildImages_frame]

/-- The builder makes them agree, whatever the grids held before (R141, R146). -/
theorem SamePlane.buildImages_inputs (h : SamePlane r s s') (hg : geometryLegal s.cfg r = true) :
    SameInputs r (planeSample s r) (buildImages r s) (buildImages r s') := by
  have hg' : geometryLegal s'.cfg r = true := h.cfg ▸ hg
  refine ⟨⟨?cfg, ?src, ?written⟩, holdsImages_buildImages hg,
    holdsImages_congr (holdsImages_buildImages hg') fun py hy px hx => ?plane⟩
  case cfg => rw [buildImages_cfg, buildImages_cfg, h.cfg]
  case src => rw [buildImages_src, buildImages_src, h.src]
  case written =>
    rw [buildImages_frame]
    exact h.written
  case plane =>
    rw [buildImages_cfg, h.cfg] at hy hx
    exact h.planeSample_eq hy hx

/-- Both images agree on their whole footprint, the zero strip included (R145, R146). -/
theorem SamePlane.get?_buildImages (h : SamePlane r s s') (hg : geometryLegal s.cfg r = true) {y x : Nat}
    (hy : y ≤ heightExt s.cfg r) (hx : x ≤ widthExt s.cfg r + s.cfg.zpad) :
    Memory.get? (buildImages r s).gridC (iiAddr r y x) = Memory.get? (buildImages r s').gridC (iiAddr r y x) ∧
    Memory.get? (buildImages r s).gridD (iiAddr r y x) = Memory.get? (buildImages r s').gridD (iiAddr r y x) := by
  have hcfg := h.cfg
  by_cases hactive : x ≤ widthExt s.cfg r
  · obtain ⟨-, himg, himg'⟩ := h.buildImages_inputs hg
    obtain ⟨hD, hC⟩ := himg y x (by simpa using hy) (by simpa using hactive)
    obtain ⟨hD', hC'⟩ := himg' y x (by simpa [hcfg] using hy) (by simpa [hcfg] using hactive)
    exact ⟨hC.trans hC'.symm, hD.trans hD'.symm⟩
  · obtain ⟨hC, hD⟩ := get?_buildImages_strip hg hy (by omega) hx
    obtain ⟨hC', hD'⟩ := get?_buildImages_strip (s := s') (hcfg ▸ hg) (hcfg ▸ hy) (by rw [hcfg]; omega) (hcfg ▸ hx)
    exact ⟨hC.trans hC'.symm, hD.trans hD'.symm⟩

end

/-! The candidates -/

section
variable {m m' : Int → Int → Word} {i j : Int}

/-- The precise kernel reads the nine positions around its centre (R201). -/
theorem kernelPrecise_congr (h : ∀ y x, i - 1 ≤ y → y ≤ i + 1 → j - 1 ≤ x → x ≤ j + 1 → m y x = m' y x) :
    kernelPrecise m i j = kernelPrecise m' i j := by
  have hrow : ∀ y, i - 1 ≤ y → y ≤ i + 1 →
      m y (j - 1) = m' y (j - 1) ∧ m y j = m' y j ∧ m y (j + 1) = m' y (j + 1) := fun y hl hr =>
    ⟨h y _ hl hr (by omega) (by omega), h y _ hl hr (by omega) (by omega), h y _ hl hr (by omega) (by omega)⟩
  simp only [kernelPrecise, hrow (i - 1) (by omega) (by omega), hrow i (by omega) (by omega), hrow (i + 1) (by omega) (by omega)]

end

section
variable {f : Nat → Nat → Nat} {s s' t t' : State} {r : OperandRegs} {k : Slot}

/-- A slot's interpolator reads `A` and `B` at the positions of its estimator only (R182, R200, R203). -/
theorem slotCandidate_congr {i j : Nat} (hi : i < r.height.toNat) (hj : j < r.width.toNat) (hcfg : t'.cfg = t.cfg)
    (hx : t'.srcSample r i j (fltAddr r i j) = t.srcSample r i j (fltAddr r i j))
    (ha : ∀ y x, (y, x) ∈ slotCells r k → t'.at r .a (fltAddr r i j) y x = t.at r .a (fltAddr r i j) y x)
    (hb : ∀ y x, (y, x) ∈ slotCells r k → t'.at r .b (fltAddr r i j) y x = t.at r .b (fltAddr r i j) y x) :
    t'.slotCandidate r k i j = t.slotCandidate r k i j := by
  cases k with
  | slot0 =>
    rcases Nat.mod_two_eq_zero_or_one i with heven | hodd
    · have hrow : ∀ y x : Int, y = i - 1 ∨ y = i + 1 → (j : Int) - 1 ≤ x → x ≤ j + 1 → (y, x) ∈ fastWindow r := by
        intro y x hy _ _
        rw [mem_fastWindow]
        dsimp only
        omega
      simp only [State.slotCandidate, fastCandidate_even _ _ _ heven, hcfg, hx]
      rw [kernelEven_congr fun y x hy hl hr => ha y x (hrow y x hy hl hr),
        kernelEven_congr fun y x hy hl hr => hb y x (hrow y x hy hl hr)]
    · have hrow : ∀ x : Int, (j : Int) - 1 ≤ x → x ≤ j + 1 → ((i : Int), x) ∈ fastWindow r := by
        intro x _ _
        rw [mem_fastWindow]
        dsimp only
        omega
      simp only [State.slotCandidate, fastCandidate_odd _ _ _ hodd, hcfg, hx]
      rw [kernelOdd_congr fun x hl hr => ha _ x (hrow x hl hr), kernelOdd_congr fun x hl hr => hb _ x (hrow x hl hr)]
  | slot1 =>
    have hnear : ∀ y x : Int, (i : Int) - 1 ≤ y → y ≤ i + 1 → (j : Int) - 1 ≤ x → x ≤ j + 1 →
        (y, x) ∈ preciseWindow r := by
      intro y x _ _ _ _
      rw [mem_preciseWindow]
      dsimp only
      omega
    simp only [State.slotCandidate, State.preciseCandidate, hcfg, hx]
    rw [kernelPrecise_congr fun y x h1 h2 h3 h4 => ha y x (hnear y x h1 h2 h3 h4),
      kernelPrecise_congr fun y x h1 h2 h3 h4 => hb y x (hnear y x h1 h2 h3 h4)]

/-- A position's pair from the window sums of a plane (R172, R178). -/
def windowPair (P : Params) (r : OperandRegs) (k : Slot) (f : Nat → Nat → Nat) (i j : Int) : Word × Word :=
  coefficients P r.bitDepth.toNat (slotRadius P r k) (slotStrength P r k)
    (BitVec.ofNat 32 (windowSum P f i j (slotRadius P r k)))
    (BitVec.ofNat 32 (windowSum P (fun py px => f py px ^ 2) i j (slotRadius P r k)))

/-- After a slot's estimator on the images of a plane its positions read as the pairs of that plane, with no draw (R170, R181). -/
theorem at_slotEstimate (hP : s.cfg.wf) (hg : geometryLegal s.cfg r = true)
    (hrad : radiusLegal s.cfg (slotRadius s.cfg r k) = true) (himg : holdsImages s r f) (site : Nat) {y x : Int}
    (hyx : (y, x) ∈ slotCells r k) :
    (slotEstimate k r s).at r .a site y x = (windowPair s.cfg r k f y x).1 ∧
    (slotEstimate k r s).at r .b site y x = (windowPair s.cfg r k f y x).2 := by
  obtain ⟨hA, hB⟩ := get?_estimate_of_holdsImages hP hg hrad himg (slotCells_subset r k) hyx
  exact ⟨readGrid_of_get? hA, readGrid_of_get? hB⟩

/-- So the candidates of two blocks with the same inputs agree (R146, R238). -/
theorem SameInputs.slotCandidate_eq (h : SameInputs r f s s') (hP : s.cfg.wf) (hg : geometryLegal s.cfg r = true)
    (hrad : radiusLegal s.cfg (slotRadius s.cfg r k) = true) {i j : Nat} (hi : i < r.height.toNat) (hj : j < r.width.toNat) :
    (slotEstimate k r s').slotCandidate r k i j = (slotEstimate k r s).slotCandidate r k i j := by
  have hcfg := h.cfg
  have hplane : SamePlane r (slotEstimate k r s) (slotEstimate k r s') := ⟨h.cfg, h.src, h.written⟩
  have hat (y x : Int) (hyx : (y, x) ∈ slotCells r k) := at_slotEstimate hP hg hrad h.images (fltAddr r i j) hyx
  have hat' (y x : Int) (hyx : (y, x) ∈ slotCells r k) :=
    at_slotEstimate (hcfg ▸ hP) (hcfg ▸ hg) (hcfg ▸ hrad) h.images' (fltAddr r i j) hyx
  rw [hcfg] at hat'
  exact slotCandidate_congr hi hj h.cfg (hplane.srcSample_eq hi hj _)
    (fun y x hyx => (hat' y x hyx).1.trans (hat y x hyx).1.symm) (fun y x hyx => (hat' y x hyx).2.trans (hat y x hyx).2.symm)

/-- A slot's pair leaves what the pairs read. -/
theorem SameInputs.runSlot_inputs (h : SameInputs r f s s') (k : Slot) : SameInputs r f (runSlot k r s) (runSlot k r s') := by
  obtain ⟨⟨hcfg, hsrc, hwritten⟩, himg, himg'⟩ := h
  refine ⟨⟨?_, ?_, ?_⟩, ?_, ?_⟩
  · rwa [runSlot_cfg, runSlot_cfg]
  · rwa [runSlot_src, runSlot_src]
  · simpa [planeWritten] using hwritten
  · simpa [holdsImages] using himg
  · simpa [holdsImages] using himg'

/-- Two memories hold the same value at a written cell. -/
def SameCell (m m' : Memory 32) (a : Nat) : Prop :=
  ∃ v, Memory.get? m a = some v ∧ Memory.get? m' a = some v

/-- An active slot's pair writes the same candidates (R238). -/
theorem SameInputs.sameCell_runSlot (h : SameInputs r f s s') (hP : s.cfg.wf) (hg : geometryLegal s.cfg r = true)
    (hrad : radiusLegal s.cfg (slotRadius s.cfg r k) = true) (active : slotRadius s.cfg r k ≠ 0) {i j : Nat}
    (hi : i < r.height.toNat) (hj : j < r.width.toNat) :
    SameCell ((runSlot k r s).grid (fltGrid k)) ((runSlot k r s').grid (fltGrid k)) (fltAddr r i j) := by
  have active' : slotRadius s'.cfg r k ≠ 0 := h.cfg ▸ active
  rw [runSlot_of_active active, runSlot_of_active active']
  refine ⟨_, (get?_interpolate _ k r _).1 i j hi hj, ?_⟩
  rw [← h.slotCandidate_eq hP hg hrad hi hj]
  exact (get?_interpolate _ k r _).1 i j hi hj

/-! The composites -/

theorem radiusLegal_of_restore {P : Params} (hpass : firstFailure .restore P r = none) (active : slotRadius P r k ≠ 0) :
    radiusLegal P (slotRadius P r k) = true :=
  slotRadius_legal_of_accepted (i := .calcAb k) rfl (firstFailure_slot_primitive hpass rfl rfl active) k

/-- `RESTORE` leaves the same candidates of every active slot (R238, R284). -/
theorem SamePlane.sameCell_restoreBody (h : SamePlane r s s') (hP : s.cfg.wf) (hpass : firstFailure .restore s.cfg r = none)
    (active : slotRadius s.cfg r k ≠ 0) {i j : Nat} (hi : i < r.height.toNat) (hj : j < r.width.toNat) :
    SameCell ((restoreBody r s).grid (fltGrid k)) ((restoreBody r s').grid (fltGrid k)) (fltAddr r i j) := by
  have hg := (legal_of_accepted rfl hpass).2
  have hrad := radiusLegal_of_restore hpass active
  have hinputs := h.buildImages_inputs hg
  have hcfg := buildImages_cfg r s
  cases k with
  | slot0 =>
    have hother : Slot.slot0 ≠ .slot1 := by decide
    rw [restoreBody_eq, restoreBody_eq, grid_runSlot_of_ne hother, grid_runSlot_of_ne hother]
    rw [← hcfg] at hP hg hrad active
    exact hinputs.sameCell_runSlot hP hg hrad active hi hj
  | slot1 =>
    have hcfg1 : (runSlot .slot0 r (buildImages r s)).cfg = s.cfg := (runSlot_cfg _ _ _).trans hcfg
    rw [← hcfg1] at hP hg hrad active
    exact (hinputs.runSlot_inputs .slot0).sameCell_runSlot hP hg hrad active hi hj

/-- The same blend, where the candidates of the active slots are the same (R210, R212). -/
theorem SamePlane.blended_eq (h : SamePlane r s s') {i j : Nat} (hi : i < r.height.toNat) (hj : j < r.width.toNat)
    (hflt : ∀ k, slotRadius s.cfg r k ≠ 0 → SameCell (s.grid (fltGrid k)) (s'.grid (fltGrid k)) (fltAddr r i j)) :
    s'.blended r i j = s.blended r i j := by
  have hcandidate (k : Slot) : s'.candidate r k i j = s.candidate r k i j := by
    by_cases inactive : slotRadius s.cfg r k = 0
    · rw [candidate_of_inactive inactive, candidate_of_inactive (h.cfg ▸ inactive)]
    · obtain ⟨v, hv, hv'⟩ := hflt k inactive
      rw [candidate_of_active inactive, candidate_of_active (h.cfg ▸ inactive), readGrid_of_get? hv, readGrid_of_get? hv']
  simp only [State.blended, h.cfg, h.srcSample_eq hi hj, hcandidate]

/-- What two runs of a composite agree on: the images, and the candidates of the active slots (R238). -/
def SameResults (P : Params) (r : OperandRegs) (t t' : State) : Prop :=
  (∀ y x, y ≤ heightExt P r → x ≤ widthExt P r + P.zpad →
    Memory.get? t.gridC (iiAddr r y x) = Memory.get? t'.gridC (iiAddr r y x) ∧
    Memory.get? t.gridD (iiAddr r y x) = Memory.get? t'.gridD (iiAddr r y x)) ∧
  ∀ i j : Nat, i < r.height.toNat → j < r.width.toNat →
    ((paramSet P r).r0 ≠ 0 → Memory.get? t.flt0 (fltAddr r i j) = Memory.get? t'.flt0 (fltAddr r i j)) ∧
    ((paramSet P r).r1 ≠ 0 → Memory.get? t.flt1 (fltAddr r i j) = Memory.get? t'.flt1 (fltAddr r i j))

theorem SamePlane.sameResults_restoreBody (h : SamePlane r s s') (hP : s.cfg.wf)
    (hpass : firstFailure .restore s.cfg r = none) : SameResults s.cfg r (restoreBody r s) (restoreBody r s') := by
  refine ⟨fun y x hy hx => ?images, fun i j hi hj => ⟨fun h0 => ?slot0, fun h1 => ?slot1⟩⟩
  case images =>
    rw [restoreBody_gridC, restoreBody_gridC, restoreBody_gridD, restoreBody_gridD]
    exact h.get?_buildImages (legal_of_accepted rfl hpass).2 hy hx
  case slot0 =>
    obtain ⟨v, hv, hv'⟩ := h.sameCell_restoreBody hP hpass (mt slotRadius_slot0_eq_zero.1 h0) hi hj
    exact hv.trans hv'.symm
  case slot1 =>
    obtain ⟨v, hv, hv'⟩ := h.sameCell_restoreBody hP hpass (mt slotRadius_slot1_eq_zero.1 h1) hi hj
    exact hv.trans hv'.symm

/-- Completion leaves what they agree on, and so does the blend before it (R215). -/
theorem SameResults.withControl_results {P : Params} (h : SameResults P r t t') (held : Option Pending) (done : Bool)
    (script script' : List HostEvent) : SameResults P r (t.withControl held done script) (t'.withControl held done script') := h

theorem SameResults.blendBody_results {P : Params} (h : SameResults P r t t') :
    SameResults P r (blendBody r t) (blendBody r t') := h

/-- `RESTORE` leaves the plane. -/
theorem SamePlane.restoreBody_plane (h : SamePlane r s s') : SamePlane r (restoreBody r s) (restoreBody r s') := by
  have hsrc (u : State) : (restoreBody r u).src = u.src := by rw [restoreBody_frame]
  refine ⟨?_, ?_, ?_⟩
  · rw [restoreBody_cfg, restoreBody_cfg, h.cfg]
  · rw [hsrc, hsrc, h.src]
  · simpa [planeWritten, hsrc] using h.written

/-- `APPLY` leaves the same unit cells of `DST` (R238, R284). -/
theorem SamePlane.get?_applyBody (h : SamePlane r s s') (hP : s.cfg.wf) (hpass : firstFailure .restore s.cfg r = none)
    {i j : Nat} (hi : i < r.height.toNat) (hj : j < r.width.toNat) :
    Memory.get? (applyBody r s).dst (dstAddr s.cfg r i j) = Memory.get? (applyBody r s').dst (dstAddr s.cfg r i j) := by
  have hg := (legal_of_accepted rfl hpass).2
  have hcfg := restoreBody_cfg r s
  have hcfg' := (restoreBody_cfg r s').trans h.cfg
  have hblended := h.restoreBody_plane.blended_eq hi hj fun k active => h.sameCell_restoreBody hP hpass (hcfg ▸ active) hi hj
  have hcell := (get?_blendBody (s := restoreBody r s) (hcfg.symm ▸ hg)).1 i j hi hj
  have hcell' := (get?_blendBody (s := restoreBody r s') (hcfg'.symm ▸ hg)).1 i j hi hj
  rw [hcfg] at hcell
  rw [hcfg', hblended] at hcell'
  exact hcell.trans hcell'.symm

end

/-- Settles O50: over a written plane the images, the pairs on them and the candidates are made of no draw
and of no earlier content. -/
theorem compositeDependsOnSourceOnly : Obligations.CompositeDependsOnSourceOnly := by
  unfold Obligations.CompositeDependsOnSourceOnly
  intro s s' r t t' hP hwritten hcfg hsrc agree
  have hplane : SamePlane r s s' := ⟨hcfg, hsrc, hwritten⟩
  constructor
  · intro hpass ht ht'
    rw [exec_withPending rfl] at ht ht'
    cases ht
    cases ht'
    exact (hplane.sameResults_restoreBody hP hpass).withControl_results _ _ _ _
  · intro hpass ht ht'
    rw [firstFailure_apply] at hpass
    rw [exec_withPending rfl] at ht ht'
    cases ht
    cases ht'
    exact ⟨(hplane.sameResults_restoreBody hP hpass).blendBody_results.withControl_results _ _ _ _,
      fun i j hi hj => hplane.get?_applyBody hP hpass hi hj⟩

end Sys2Proof.Machine
end

section
/-! SUPPORT. The check procedure of an operation command (R251, R259) in terms of `checkFails`, and each check as the condition of its
rule (R253 to R258). -/

namespace Sys2Proof.Machine

open Sys2Proof.Config

section
variable {P : Params} {r : OperandRegs} {i : Instr}

/-! The rows of R259 -/

/-- The operation commands that read no parameter set (R259). -/
theorem checksOf_eq_geometryChecks_iff : checksOf i = geometryChecks ↔ i = .buildII ∨ ∃ ch rad, i = .boxsum ch rad := by
  cases i <;> simp [checksOf, geometryChecks, paramChecks, slotChecks]

/-- The slot primitives (R258). -/
theorem namedSlot_eq_some_iff {k : Slot} :
    namedSlot i = some k ↔ i = .calcAb k ∨ i = .calcAbFast k ∨ i = .finalFilter k ∨ i = .finalFilterFast k := by
  cases i <;> simp [namedSlot]

/-! Each check as its rule's condition -/

theorem checkFails_bitDepth_iff :
    checkFails i P r .bitDepth = true ↔ ¬(r.bitDepth.toNat ∈ P.depths ∧ (8 < r.bitDepth.toNat → r.hbd = true)) := by
  rw [← depthLegal_iff]
  simp [checkFails]

theorem checkFails_geometry_iff : checkFails i P r .geometry = true ↔ ¬geometryLegal P r = true := by
  simp [checkFails]

theorem checkFails_paramIdx_iff : checkFails i P r .paramIdx = true ↔ ¬r.paramIdx.toNat < P.nParams := by
  simp [checkFails, paramIdxLegal]

theorem checkFails_bothZero_iff :
    checkFails i P r .bothZero = true ↔ slotRadius P r .slot0 = 0 ∧ slotRadius P r .slot1 = 0 := by
  simp [checkFails]

theorem checkFails_radius_iff : checkFails i P r .radius = true ↔
    ¬(radiusLegal P (slotRadius P r .slot0) = true ∧ radiusLegal P (slotRadius P r .slot1) = true) := by
  rw [← Bool.and_eq_true]
  simp only [checkFails, Bool.not_eq_true', Bool.not_eq_true]

theorem checkFails_slotInactive_iff : checkFails i P r .slotInactive = true ↔
    namedSlot i = some .slot0 ∧ slotRadius P r .slot0 = 0 ∨ namedSlot i = some .slot1 ∧ slotRadius P r .slot1 = 0 := by
  cases hnamed : namedSlot i with
  | none => simp [checkFails, hnamed]
  | some k => cases k <;> simp [checkFails, hnamed]

/-! The procedure -/

/-- The check procedure of an operation command, check by check in code order: the row of a command that reads no parameter set ends
with the geometry (R251, R259). -/
theorem firstFailure_operation (hi : isOperation i = true) :
    firstFailure i P r =
      if checkFails i P r .bitDepth then some .bitDepth
      else if checkFails i P r .geometry then some .geometry
      else if checksOf i = geometryChecks then none
      else if checkFails i P r .paramIdx then some .paramIdx
      else if checkFails i P r .bothZero then some .bothZero
      else if checkFails i P r .radius then some .radius
      else if checkFails i P r .slotInactive then some .slotInactive
      else none := by
  rw [firstFailure_eq hi]
  cases h : namedSlot i <;> simp [checkFails, h, or_iff_not_imp_left]

end

/-- Settles O8: each clause takes one branch of the check procedure. -/
theorem lowestFailingCheckReported : Obligations.LowestFailingCheckReported := by
  unfold Obligations.LowestFailingCheckReported
  intro s i hi idle herr P r W H SS BS we he r0 r1 depthOk geometryOk indexOk bothZero radiusOk refusedWith accepted
    slot0Named slot1Named noParams
  have hdepth : checkFails i P r .bitDepth = true ↔ ¬depthOk := checkFails_bitDepth_iff
  have hgeometry : checkFails i P r .geometry = true ↔ ¬geometryOk :=
    checkFails_geometry_iff.trans (not_congr geometryLegal_iff)
  have hrow : checksOf i = geometryChecks ↔ noParams := checksOf_eq_geometryChecks_iff
  have hindex : checkFails i P r .paramIdx = true ↔ ¬indexOk := checkFails_paramIdx_iff
  have hzero : checkFails i P r .bothZero = true ↔ bothZero := checkFails_bothZero_iff
  have hradius : checkFails i P r .radius = true ↔ ¬radiusOk :=
    checkFails_radius_iff.trans (not_congr (and_congr radiusLegal_iff radiusLegal_iff))
  have hslot : checkFails i P r .slotInactive = true ↔ slot0Named ∧ r0 = 0 ∨ slot1Named ∧ r1 = 0 :=
    checkFails_slotInactive_iff.trans (or_congr (and_congr_left' namedSlot_eq_some_iff) (and_congr_left' namedSlot_eq_some_iff))
  have refused (e : ErrCode) (h : firstFailure i P r = some e) : refusedWith e.code := exec_refused hi idle herr h
  have held (h : firstFailure i P r = none) : accepted := exec_accepted hi idle herr h
  have hfirst := firstFailure_operation (P := P) (r := r) hi
  simp only [hdepth, hgeometry, hindex, hzero, hradius, hslot] at hfirst
  refine ⟨fun hd => refused .bitDepth ?_, fun hd hg => refused .geometry ?_, fun hd hg hn => held ?_, fun hd hg hn =>
    ⟨fun hx => refused .paramIdx ?_, fun hx hz => refused .bothZero ?_, fun hx hz hr => refused .radius ?_,
      fun hx hz hr hs => refused .slotInactive ?_, fun hx hz hr hs => held ?_⟩⟩
  · rw [hfirst, if_pos hd]
  · rw [hfirst, if_neg (not_not.2 hd), if_pos hg]
  · rw [hfirst, if_neg (not_not.2 hd), if_neg (not_not.2 hg), if_pos (hrow.2 hn)]
  all_goals rw [hfirst, if_neg (not_not.2 hd), if_neg (not_not.2 hg), if_neg (hrow.not.2 hn)]
  · rw [if_pos hx]
  · rw [if_neg (not_not.2 hx), if_pos hz]
  · rw [if_neg (not_not.2 hx), if_neg hz, if_pos hr]
  · rw [if_neg (not_not.2 hx), if_neg hz, if_neg (not_not.2 hr), if_pos hs]
  · rw [if_neg (not_not.2 hx), if_neg hz, if_neg (not_not.2 hr), if_neg hs]

end Sys2Proof.Machine
end

section
/-! SUPPORT. A word written to `CMD` of an idle block that is refused or dropped (R262, R264): which commands the opcodes 0xFE and 0xFF
stand for, and what each kind of word does in the error state. -/

namespace Sys2Proof.Machine

open Sys2Proof.Config

section
variable {s : State} {w : Word} {i : Instr} {rest : List HostEvent}

/-! The opcodes of `CLR` and `SRST` -/

/-- In the table of R117 the opcodes 0xFE and 0xFF stand in the rows of `CLR` and `SRST` only. -/
theorem opcodes_of_clear_rows (w : Word) : ∀ row ∈ encodingTable,
    (opcodeField row.pattern = 0xFE ↔ row.build w = .clr) ∧ (opcodeField row.pattern = 0xFF ↔ row.build w = .srst) := by
  simp [encodingTable, opcodeField]

/-- A legal word is `CLR` or `SRST` exactly when its opcode field says so (R112, R264). -/
theorem clear_opcode_iff (decoded : decode w = some i) :
    (opcodeField w = 0xFE ↔ i = .clr) ∧ (opcodeField w = 0xFF ↔ i = .srst) := by
  simp only [decode, Option.map_eq_some_iff] at decoded
  obtain ⟨row, hfind, rfl⟩ := decoded
  have hrow : row ∈ encodingTable := List.mem_of_find?_eq_some hfind
  obtain ⟨hopcode, -⟩ := (row_accepts_iff hrow).1 (by simpa using List.find?_some hfind)
  rw [hopcode]
  exact opcodes_of_clear_rows w row hrow

/-! Refused words -/

/-- A check can fail for an operation command only (R259). -/
theorem isOperation_of_firstFailure {P : Params} {r : OperandRegs} {e : ErrCode} (h : firstFailure i P r = some e) :
    isOperation i = true := by
  cases i with
  | nop | clr | srst => simp [firstFailure, checksOf, checkFails] at h
  | _ => rfl

/-- The step of a command's write to an idle block, when the command leaves the script: its effect, with the event past (R84). -/
theorem step_write_command {t : State} (idle : s.pending = none) (hs : s.script = .write (busAddress 0x0C) w :: rest)
    (decoded : decode w = some i) (hexec : exec i s = .next t) (kept : t.script = s.script) :
    step s = .next { t with script := rest } := by
  rw [stepRunsWrittenCommand s w i rest idle hs decoded, hexec, retireOutcome, State.retire, kept, hs, List.tail_cons]

/-! The error state -/

/-- In the error state an idle block drops every command but `CLR` and `SRST` (R264). -/
theorem exec_dropped_of_err (idle : s.pending = none) (herr : s.err = true) (hclr : i ≠ .clr) (hsrst : i ≠ .srst) :
    exec i s = .next (dropWrite s) := by
  cases hi : isOperation i with
  | true => rw [exec_operation hi, operation_idle idle, accept, if_pos herr]
  | false =>
    cases i with
    | nop => exact exec_nop_of_err herr
    | clr => exact absurd rfl hclr
    | srst => exact absurd rfl hsrst
    | _ => cases hi

/-- In the error state an illegal word of another opcode than those of `CLR` and `SRST` is dropped (R264). -/
theorem refuseIllegal_dropped (herr : s.err = true) (hclr : opcodeField w ≠ 0xFE) (hsrst : opcodeField w ≠ 0xFF) :
    refuseIllegal w s = dropWrite s := by
  refine if_pos ?_
  simp only [herr, Bool.true_and, Bool.and_eq_true, bne_iff_ne]
  exact ⟨hclr, hsrst⟩

/-- In the error state a word of another opcode than those of `CLR` and `SRST`, legal or not, only sets `DROPPED` (R264). -/
theorem step_dropped_of_err (idle : s.pending = none) (herr : s.err = true)
    (hs : s.script = .write (busAddress 0x0C) w :: rest) (hclr : opcodeField w ≠ 0xFE) (hsrst : opcodeField w ≠ 0xFF) :
    step s = .next { s with dropped := true, script := rest } := by
  cases decoded : decode w with
  | none =>
    have hwrite : writeCmd w s = .advance (dropWrite s) := by
      simp [writeCmd, decoded, refuseIllegal_dropped herr hclr hsrst]
    exact step_boundary hs ((nextAction_write hs).trans ((hostWrite_cmd idle w).trans hwrite)) rfl
  | some i =>
    obtain ⟨hi, hi'⟩ := clear_opcode_iff decoded
    exact step_write_command idle hs decoded (exec_dropped_of_err idle herr (hi.not.1 hclr) (hi'.not.1 hsrst)) rfl

end

/-! The statements -/

/-- Settles O9: an illegal word is refused by its legality, and a command that fails a check is an operation command, so that its
opcode is not one of those that the error state lets through. -/
theorem errorEntryChangesNothingElse : Obligations.ErrorEntryChangesNothingElse := by
  unfold Obligations.ErrorEntryChangesNothingElse
  rintro s w e rest idle checked hs (⟨illegal, rfl⟩ | ⟨i, decoded, hfail⟩)
  · exact (illegalWordRefused w).2 s rest idle checked hs illegal
  · have hi : isOperation i = true := isOperation_of_firstFailure hfail
    have herr : s.err = false := by
      rcases checked with herr | hclr | hsrst
      · exact herr
      · rw [(clear_opcode_iff decoded).1.1 hclr] at hi
        cases hi
      · rw [(clear_opcode_iff decoded).2.1 hsrst] at hi
        cases hi
    have hrefused := exec_refused hi idle herr hfail
    rw [encode_of_decode decoded] at hrefused
    exact step_write_command idle hs decoded hrefused rfl

/-- Settles O10: a word of the opcode of `CLR` or `SRST` is that command when it is legal, and error entry when it is not. -/
theorem errorStateBlocksCommands : Obligations.ErrorStateBlocksCommands := by
  unfold Obligations.ErrorStateBlocksCommands
  intro s w rest idle herr hs
  refine ⟨fun ⟨hclr, hsrst⟩ => step_dropped_of_err idle herr hs hclr hsrst, fun hopcode => ?_⟩
  cases decoded : decode w with
  | none => exact .inr (.inr ⟨rfl, (illegalWordRefused w).2 s rest idle (.inr hopcode) hs decoded⟩)
  | some i =>
    obtain ⟨hclr, hsrst⟩ := clear_opcode_iff decoded
    rcases hopcode.imp hclr.1 hsrst.1 with rfl | rfl
    · exact .inl ⟨(encode_of_decode decoded).symm, step_write_command idle hs decoded (controlCommand_idle idle _) rfl⟩
    · exact .inr (.inl ⟨(encode_of_decode decoded).symm, step_write_command idle hs decoded (controlCommand_idle idle _) rfl⟩)

end Sys2Proof.Machine
end

section
/-! SUPPORT. Every sample a command reads lies inside `SRC` (R71, R254), beside the bounds of the other memories in the layers above. -/

namespace Sys2Proof.Machine

open Sys2Proof.Config

section
variable {P : Params} {r : OperandRegs}

/-- Under the geometry check the bordered plane lies inside `SRC`: its last row ends there (R254). -/
theorem planeAddr_lt (hg : geometryLegal P r = true) {py px : Nat} (hy : py < heightExt P r) (hx : px < widthExt P r) :
    py * r.srcStride.toNat + px < P.srcCells := by
  obtain ⟨-, -, -, -, hsrc, -⟩ := geometryLegal_iff.1 hg
  have hrow : py * r.srcStride.toNat ≤ (heightExt P r - 1) * r.srcStride.toNat := Nat.mul_le_mul_right _ (by omega)
  omega

/-- A unit position is a place of the bordered plane, one border further in each dimension (R71). -/
theorem srcAddr_lt (hg : geometryLegal P r = true) {i j : Nat} (hi : i < r.height.toNat) (hj : j < r.width.toNat) :
    srcAddr P r i j < P.srcCells := by
  rw [srcAddr_eq]
  exact planeAddr_lt hg (by unfold heightExt; omega) (by unfold widthExt; omega)

end

/-- Settles O56: each address function under the condition of R254 on its memory. -/
theorem formedAddressesInside : Obligations.FormedAddressesInside := by
  unfold Obligations.FormedAddressesInside
  intro P r hP hg
  refine ⟨fun py px => planeAddr_lt hg, fun i j hi hj => ?unit, fun y x => iiAddr_lt hg, fun i j hi hi' hj hj' => ?window⟩
  case unit =>
    have hunit : (i, j) ∈ unitPositions r := mem_unitPositions.2 ⟨hi, hj⟩
    exact ⟨srcAddr_lt hg hi hj, dstAddr_lt hg hunit, fltAddr_lt hg hunit⟩
  case window =>
    have hwindow : (i, j) ∈ preciseWindow r := mem_preciseWindow.2 ⟨⟨hi, hi'⟩, hj, hj'⟩
    exact posAddr_lt hP hg hwindow

end Sys2Proof.Machine
end

section
/-! SUPPORT. The reset input: it keeps the parameter record and takes everything else a register or a memory shows from the reset
state (R280, R281). -/

namespace Sys2Proof.Machine

open Sys2Proof.Config

/-- The capability registers alone show the parameter record (R32), so the rest read as in the reset state (R55, R280). -/
theorem readReg_hardReset (s : State) {x : Reg} (hx : x ∉ [Reg.cap0, .cap1, .cap2]) :
    readReg (hardReset s) x = readReg State.reset x := by
  cases x with
  | cap0 | cap1 | cap2 => exact absurd hx (by decide)
  | _ => rfl

theorem ramWord_hardReset (s : State) (m : Ram) (n : Nat) : ramWord (hardReset s) m n = ramWord State.reset m n := by
  rcases m with (_ | _) | (_ | _ | _ | _ | _ | _) <;> rfl

/-- Settles O16: what the block shows after the reset input is what the reset state shows, by `resetStateIsIdle`. -/
theorem resetInputResetsBlock : Obligations.ResetInputResetsBlock := by
  unfold Obligations.ResetInputResetsBlock
  intro s rest hs
  obtain ⟨-, noCell, -, readsZero, -⟩ := resetStateIsIdle
  refine ⟨_, step_advance (nextAction_rst hs), rfl, rfl, rfl, rfl, rfl, rfl, rfl, fun x hx => ?zero, fun m n => ?empty⟩
  case zero =>
    have notCap : x ∉ [Reg.cap0, .cap1, .cap2] := by
      revert x
      decide
    rw [readReg_retire, readReg_hardReset s notCap, readsZero x hx]
  case empty => rw [ramWord_retire, ramWord_hardReset, noCell]

end Sys2Proof.Machine
end
